-- ==== Sys2Proof/Word.lean ====
section
/-! DEFINITION. The word types of the Falwa 2 architecture (R5, R16, R89). -/

namespace Sys2Proof

/-- A byte of memory, or a tag byte (R16). -/
abbrev Byte := BitVec 8

/-- A 32-bit word: one lane of a V register, a uniform register, a mask of 32 lanes. -/
abbrev Word := BitVec 32

/-- A 64-bit word: addresses, A registers, instruction words. -/
abbrev DWord := BitVec 64

end Sys2Proof
end

