-- ==== Sys2Proof/Syntax.lean ====
section
/-! DEFINITION. The instructions and steps of spec/opcode_table.json, one constructor for each row. -/

namespace Sys2Proof

/-- The element formats, in the order of their FMT codes 0 to 14 (R79). -/
inductive Fmt
  | f32 | f16 | bf16 | m8 | fp4 | e4m3 | e5m2 | i32 | ui32 | i16 | i8 | ui8 | i4 | f64 | b32
  deriving DecidableEq, Repr

/-- A V register number. -/
abbrev VR := Fin 256
/-- A uniform register number. -/
abbrev SR := Fin 1024
/-- A predicate number; 7 reads true and discards writes (R126). -/
abbrev PR := Fin 8
/-- A tile-map slot number. -/
abbrev QR := Fin 32

/-- The guard (R53) and the yield hint (R55) that every strand instruction carries. -/
structure Hd where
  neg : Bool := false
  p : PR := 7
  y : Bool := false
  deriving DecidableEq, Repr

/-- The B operand as BK, SW and L give it (R50, R52). `imm32` is the long form. -/
inductive BSrc
  | v (n : VR)
  | s (n : SR)
  | imm8 (n : BitVec 8)
  | imm32 (n : Word)
  deriving DecidableEq, Repr

/-- Rounding modes (R97). -/
inductive RMode
  | rn | rz | ru | rd | rs
  deriving DecidableEq, Repr

/-- The modifier bits of R49. -/
structure Mods where
  na : Bool := false
  nb : Bool := false
  abs : Bool := false
  sat : Bool := false
  deriving DecidableEq, Repr

/-- Comparison codes of ISETP (R144); FSETP adds `num` and `nan` (R168). -/
inductive Cmp
  | eq | ne | lt | le | gt | ge | num | nan
  deriving DecidableEq, Repr

/-- How a comparison result combines with a predicate (R144, R168). -/
inductive CombOp
  | none | and | or | xor
  deriving DecidableEq, Repr

/-- The combining part of the C field: operation, negation and predicate. -/
structure Comb where
  op : CombOp := .none
  neg : Bool := false
  p : PR := 0
  deriving DecidableEq, Repr

/-- SHFL modes (R149). -/
inductive ShflMode
  | idx | up | down | xor
  deriving DecidableEq, Repr

/-- VOTE modes (R150). -/
inductive VoteMode
  | all | any | uni
  deriving DecidableEq, Repr

/-- RDSPEC names, in code order (R151). -/
inductive Spec
  | lane | strandix | role | threadix | roleix | coreslot | partition | vcyclo | vcychi | ntiles
  deriving DecidableEq, Repr

/-- PRMOV sub-operations with their operands (R153). -/
inductive PrOp
  | pack (d : VR)
  | unpack (a : VR) (mask : BSrc)
  | copy (pd : PR) (pa : PR) (neg : Bool)
  deriving DecidableEq, Repr

/-- UALU operations, in SUB order (R154). -/
inductive UOp
  | add | sub | mul | min | max | and | or | xor | shl | shr | sar
  deriving DecidableEq, Repr

/-- ANGROT forms (R179). -/
inductive AngOp
  | cos | sin | rot
  deriving DecidableEq, Repr

/-- Access widths (R275): 1, 2, 4, 8 or 16 bytes. -/
inductive Width
  | b8 | b16 | b32 | b64 | b128
  deriving DecidableEq, Repr

/-- The base of a strand memory operand (R275). -/
inductive MBase
  | v (n : VR)
  | s (n : Fin 256)
  deriving DecidableEq, Repr

/-- Atomic operations, in SUB order (R283). -/
inductive AOp
  | add | min | max | and | or | xor | exch | inc
  deriving DecidableEq, Repr

/-- Atomic orders (R275). -/
inductive Order
  | rlx | acq | rel | acqrel
  deriving DecidableEq, Repr

/-- Scopes (R307). -/
inductive Scope
  | core | gang | dev | sys
  deriving DecidableEq, Repr

/-- CMO operations (R289). -/
inductive CmoOp
  | clean | inval | cleaninval
  deriving DecidableEq, Repr

/-- CMO levels (R289). -/
inductive CmoLevel
  | l1 | l2 | mem
  deriving DecidableEq, Repr

/-- Path counters (R417). -/
inductive Path
  | ld | st | sh | w0 | w1 | coll | rcp | lch
  deriving DecidableEq, Repr

/-- Collective kinds (R362). -/
inductive CollKind
  | allreduce | redscat | allgather | bcast | alltoall | barrier
  deriving DecidableEq, Repr

/-- SACC operations (R429). -/
inductive SaccOp
  | add | max | set
  deriving DecidableEq, Repr

/-- The S slot of a bundle (R60). -/
structure SSlot where
  op : BitVec 6
  d : BitVec 6
  a : BitVec 6
  b : BitVec 6
  imm : BitVec 32
  sub : BitVec 4
  i : BitVec 1
  z : BitVec 3
  deriving DecidableEq, Repr

/-- A V slot of a bundle (R60). -/
structure VSlot where
  op : BitVec 6
  width : BitVec 2
  fmt : BitVec 4
  lb : BitVec 3
  dtile : BitVec 9
  dreg : BitVec 3
  atile : BitVec 9
  areg : BitVec 3
  btile : BitVec 9
  breg : BitVec 3
  sa : BitVec 6
  sub : BitVec 4
  lg : BitVec 3
  deriving DecidableEq, Repr

/-- The M slot of a bundle (R60). -/
structure MSlot where
  op : BitVec 4
  fmtA : BitVec 4
  fmtB : BitVec 4
  bsA : BitVec 2
  bsB : BitVec 2
  d : BitVec 9
  a : BitVec 9
  b : BitVec 9
  c : BitVec 9
  z : BitVec 5
  x : BitVec 3
  acc : BitVec 1
  sub : BitVec 3
  deriving DecidableEq, Repr

/-- The L slot of a bundle (R60). -/
structure LSlot where
  op : BitVec 4
  lb : BitVec 3
  dtile : BitVec 9
  base : BitVec 6
  off : BitVec 18
  layout : BitVec 4
  sub : BitVec 4
  deriving DecidableEq, Repr

/-- The W slot of a bundle (R60). -/
structure WSlot where
  op : BitVec 4
  stile : BitVec 9
  base : BitVec 6
  off : BitVec 18
  layout : BitVec 4
  rd : BitVec 6
  z : BitVec 1
  deriving DecidableEq, Repr

/-- The K slot of a bundle (R60). -/
structure KSlot where
  op : BitVec 4
  lb : BitVec 3
  dst : BitVec 5
  base : BitVec 6
  off : BitVec 14
  deriving DecidableEq, Repr

/-- The C slot of a bundle (R60). -/
structure CSlot where
  op : BitVec 4
  path : BitVec 3
  dst : BitVec 6
  src : BitVec 6
  len : BitVec 6
  shape : BitVec 6
  flags : BitVec 17
  deriving DecidableEq, Repr

/-- The Y slot of a bundle (R60). -/
structure YSlot where
  op : BitVec 5
  tile : BitVec 9
  id : BitVec 10
  a : BitVec 6
  scope : BitVec 2
  deriving DecidableEq, Repr

/-- A 512-bit bundle, split into its fields (R58, R60); every bit is in exactly one field. -/
structure Bundle where
  ver : BitVec 4
  pres : BitVec 9
  port0 : BitVec 4
  port1 : BitVec 4
  port2 : BitVec 4
  port3 : BitVec 4
  hz : BitVec 19
  s : SSlot
  v0 : VSlot
  v1 : VSlot
  m : MSlot
  l : LSlot
  w : WSlot
  k : KSlot
  c : CSlot
  y : YSlot
  deriving DecidableEq, Repr

/-- A strand or a Capstan, named by its group's number in `State.groups`. -/
inductive Agent
  | strand (gid j : Nat)
  | capstan (gid : Nat)
  deriving DecidableEq, Repr

/-- Where an uncorrectable error lies (R270). -/
inductive EccPlace
  | l1 (core line : Nat)
  | l2 (line : Nat)
  | hbm (line : Nat)
  | shared (gid off : Nat)
  | tile (gid tile word : Nat)
  | slice (gid entry : Nat)
  | snapshot (gid : Nat)
  deriving DecidableEq, Repr

/-- One firmware image met by the boot ROM: its version, its bytes and its signature (R460). -/
structure Image where
  version : Word
  bytes : List Byte
  signature : List Byte
  deriving DecidableEq, Repr

/-- A collective data message: the block of one rank, with what the members must agree on (R367). -/
structure CollMsg where
  gen : Nat
  seq : Nat
  rank : Nat
  kind : CollKind
  fmt : Fmt
  count : Nat
  rop : Nat
  root : Nat
  bytes : List Byte
  deriving DecidableEq, Repr

/-- The ONE instruction type: a constructor for each row of spec/opcode_table.json. -/
inductive Instr
  -- Registers II (R135 to R156)
  | nop (h : Hd)
  | iadd (h : Hd) (f : Fmt) (d a : VR) (b : BSrc) (na nb sat : Bool)
  | isub (h : Hd) (f : Fmt) (d a : VR) (b : BSrc) (sat : Bool)
  | imul (h : Hd) (f : Fmt) (d a : VR) (b : BSrc) (sat : Bool)
  | imulh (h : Hd) (f : Fmt) (d a : VR) (b : BSrc)
  | imad (h : Hd) (f : Fmt) (d a : VR) (b : BSrc) (c : VR) (sat : Bool)
  | imin (h : Hd) (f : Fmt) (d a : VR) (b : BSrc)
  | imax (h : Hd) (f : Fmt) (d a : VR) (b : BSrc)
  | band (h : Hd) (d a : VR) (b : BSrc)
  | bor (h : Hd) (d a : VR) (b : BSrc)
  | bxor (h : Hd) (d a : VR) (b : BSrc)
  | blut (h : Hd) (d a : VR) (b : BSrc) (c : VR) (tab : BitVec 8)
  | shl (h : Hd) (d a : VR) (b : BSrc)
  | shr (h : Hd) (d a : VR) (b : BSrc)
  | sar (h : Hd) (d a : VR) (b : BSrc)
  | shd (h : Hd) (left md : Bool) (d a : VR) (b : BSrc) (c : VR)
  | popc (h : Hd) (d a : VR)
  | clz (h : Hd) (d a : VR)
  | brev (h : Hd) (d a : VR)
  | bfe (h : Hd) (f : Fmt) (d a : VR) (b : BSrc)
  | bfi (h : Hd) (d a : VR) (b : BSrc) (c : VR)
  | isetp (h : Hd) (f : Fmt) (cmp : Cmp) (pd : PR) (a : VR) (b : BSrc) (comb : Comb)
  | iadd64 (h : Hd) (d a : VR) (b : BSrc) (nb : Bool)
  | lea (h : Hd) (u : Bool) (d a : VR) (b : BSrc) (sh : Fin 8)
  | idp4 (h : Hd) (f : Fmt) (mix sat : Bool) (d a : VR) (b : BSrc) (c : VR)
  | mov (h : Hd) (f : Fmt) (d : VR) (b : BSrc)
  | sel (h : Hd) (f : Fmt) (d a : VR) (b : BSrc) (pc : PR) (neg : Bool)
  | shfl (h : Hd) (mode : ShflMode) (d a : VR) (b : BSrc) (logw : Fin 6)
  | vote (h : Hd) (mode : VoteMode) (pd pa : PR) (neg : Bool)
  | ballot (h : Hd) (d : VR) (pa : PR) (neg : Bool)
  | rdspec (h : Hd) (d : VR) (name : Spec)
  | emrd (h : Hd) (live : Bool) (sd : SR)
  | emwr (h : Hd) (b : BSrc)
  | prmov (h : Hd) (op : PrOp)
  | ualu (h : Hd) (f : Fmt) (op : UOp) (sat : Bool) (sd sa : SR) (b : BSrc)
  | umov (h : Hd) (sd : SR) (a : Option VR) (b : BSrc)
  -- Registers III (R157 to R186)
  | fadd (h : Hd) (f : Fmt) (mode : RMode) (m : Mods) (d a : VR) (b : BSrc)
  | fmul (h : Hd) (f : Fmt) (mode : RMode) (m : Mods) (d a : VR) (b : BSrc)
  | ffma (h : Hd) (f : Fmt) (mode : RMode) (m : Mods) (d a : VR) (b : BSrc) (c : VR)
  | fmin (h : Hd) (f : Fmt) (m : Mods) (d a : VR) (b : BSrc)
  | fmax (h : Hd) (f : Fmt) (m : Mods) (d a : VR) (b : BSrc)
  | fdiv (h : Hd) (f : Fmt) (mode : RMode) (m : Mods) (d a : VR) (b : BSrc)
  | fsetp (h : Hd) (f : Fmt) (cmp : Cmp) (m : Mods) (pd : PR) (a : VR) (b : BSrc) (comb : Comb) (elem1 : Bool)
  | frcp (h : Hd) (f : Fmt) (mode : RMode) (m : Mods) (d a : VR)
  | fsqrt (h : Hd) (f : Fmt) (mode : RMode) (m : Mods) (d a : VR)
  | frsq (h : Hd) (f : Fmt) (mode : RMode) (m : Mods) (d a : VR)
  | fexp2 (h : Hd) (f : Fmt) (mode : RMode) (m : Mods) (d a : VR)
  | flog2 (h : Hd) (f : Fmt) (mode : RMode) (m : Mods) (d a : VR)
  | fsin (h : Hd) (f : Fmt) (mode : RMode) (m : Mods) (d a : VR)
  | fcos (h : Hd) (f : Fmt) (mode : RMode) (m : Mods) (d a : VR)
  | ftanh (h : Hd) (f : Fmt) (mode : RMode) (m : Mods) (d a : VR)
  | fclass (h : Hd) (f : Fmt) (d a : VR)
  | fdot2 (h : Hd) (f : Fmt) (mode : RMode) (m : Mods) (d a : VR) (b : BSrc) (c : VR)
  | cvt (h : Hd) (dst src : Fmt) (mode : RMode) (m : Mods) (d a : VR) (part : Fin 8)
  | qnt (h : Hd) (f : Fmt) (mode : RMode) (sat : Bool) (d a : VR) (b : BSrc) (part : Fin 8)
  | dqnt (h : Hd) (f : Fmt) (mode : RMode) (d a : VR) (b : BSrc) (part : Fin 8)
  | angrot (h : Hd) (op : AngOp) (d a : VR) (b : BSrc) (c : VR)
  | nanpl (h : Hd) (f : Fmt) (d a : VR) (elem1 : Bool)
  | sigq (h : Hd) (f : Fmt) (sel : Fin 9) (pd : PR) (a : VR) (b : BSrc) (comb : Comb)
  | sigget (h : Hd) (f : Fmt) (d a : VR) (k : Fin 8)
  | sigset (h : Hd) (f : Fmt) (d : VR) (b : BSrc) (k : Fin 8)
  | sigmin (h : Hd) (f : Fmt) (sd : SR) (a : VR)
  -- Memories II (R274 to R291)
  | ld (h : Hd) (w : Width) (sx cg : Bool) (d : VR) (base : MBase) (idx : BSrc) (disp : BitVec 8)
  | st (h : Hd) (w : Width) (d : VR) (base : MBase) (idx : BSrc) (disp : BitVec 8)
  | lds (h : Hd) (w : Width) (sx : Bool) (d : VR) (base : MBase) (idx : BSrc) (disp : BitVec 8)
  | sts (h : Hd) (w : Width) (d : VR) (base : MBase) (idx : BSrc) (disp : BitVec 8)
  | ldt (h : Hd) (w : Width) (cg : Bool) (d : VR) (base : MBase) (idx : BSrc) (disp : BitVec 8)
  | stt (h : Hd) (w : Width) (d : VR) (base : MBase) (idx : BSrc) (disp : BitVec 8)
  | atom (h : Hd) (op : AOp) (f : Fmt) (ord : Order) (sc : Scope) (d : VR) (base : MBase) (idx : BSrc) (c : VR)
  | cas (h : Hd) (wide : Bool) (ord : Order) (sc : Scope) (d : VR) (base : MBase) (idx : BSrc) (c : VR)
  | atoms (h : Hd) (op : AOp) (f : Fmt) (ord : Order) (d : VR) (base : MBase) (idx : BSrc) (c : VR)
  | cass (h : Hd) (wide : Bool) (ord : Order) (d : VR) (base : MBase) (idx : BSrc) (c : VR)
  | red (h : Hd) (op : AOp) (f : Fmt) (ord : Order) (sc : Scope) (base : MBase) (idx : BSrc) (c : VR)
  | pref (h : Hd) (l2 : Bool) (base : MBase) (idx : BSrc)
  | prefr (h : Hd) (a : Fin 256) (len : BSrc)
  | cmo (h : Hd) (op : CmoOp) (level : CmoLevel) (a : Fin 256) (len : BSrc)
  | ldh (h : Hd) (w : Width) (d : VR) (a : Fin 256) (pos : BSrc) (disp : BitVec 8)
  -- Counters (R416 to R431)
  | mark (h : Hd)
  | fence (h : Hd) (sc : Scope)
  | barSync (h : Hd) (b : Fin 16) (n : BSrc)
  | barArrive (h : Hd) (b : Fin 16) (n : BSrc)
  | clarm (h : Hd) (pd : PR) (c : Fin 32) (count : BSrc)
  | clarmFree (h : Hd) (pd : PR) (c : Fin 32)
  | clarv (h : Hd) (gang : Bool) (c : Fin 32) (pos : Fin 16) (n : BSrc)
  | clwait (h : Hd) (gang : Bool) (pd : PR) (c : Fin 32) (parity : BSrc)
  | waitp (h : Hd) (path : Path) (v : BSrc)
  -- Registers VI: ownership (R232 to R235)
  | give (h : Hd) (q : QR)
  | take (h : Hd) (q : QR)
  | tqry (h : Hd) (slot : Bool) (d : VR) (b : BSrc)
  -- Memories III: regions (R320, R321); the guard is fixed
  | rgnbeg (y : Bool)
  | rgnend (y : Bool)
  -- Tables II: TICK
  | tick (h : Hd)
  -- Queues II and I
  | copy (h : Hd) (path : Fin 8) (a : Fin 128)
  | copyg (h : Hd) (path : Fin 8) (a : Fin 128)
  | launch (h : Hd) (pd : PR) (a : Fin 256)
  | join (h : Hd) (pd : PR) (a : Fin 256) (v : BSrc)
  | coll (h : Hd) (f : Fmt) (kind : CollKind) (sd : SR) (a : Fin 256) (m : SR)
  | tkstat (h : Hd) (sd : SR) (a : Fin 256) (ticket : BSrc)
  | tkstatWait (h : Hd) (sd : SR) (a : Fin 256) (ticket : BSrc)
  | tkreform (h : Hd) (pd : PR) (a : Fin 256) (m : SR)
  -- Tables I
  | htrans (h : Hd) (d : VR) (a : Fin 256) (pos : BSrc)
  | kvapp (h : Hd) (sx : SR) (a : Fin 256)
  | kvfork (h : Hd) (sx : SR) (a : Fin 256) (m : SR)
  | kvrel (h : Hd) (a : Fin 256)
  | kvsetMap (h : Hd) (sx : SR) (a : Fin 256) (p : BSrc)
  | kvsetNew (h : Hd) (sx : SR) (a : Fin 256) (p : BSrc)
  | kvsetAbsent (h : Hd) (a : Fin 256) (p : BSrc)
  | kvmove (h : Hd) (sx : SR) (a : Fin 256)
  | belayAdd (h : Hd) (pd : PR) (a : Fin 256) (len : BSrc)
  | belayDrop (h : Hd) (pd : PR) (a : Fin 256) (len : BSrc)
  -- Tables II
  | retireRcp (h : Hd) (pd : PR) (a : Fin 256) (len : BSrc)
  | retireBly (h : Hd) (pd : PR) (a : Fin 256) (len : BSrc)
  | rcpqState (h : Hd) (d a : VR)
  | rcpqStep (h : Hd) (d a : VR)
  | sched (h : Hd) (pd : PR) (a : Fin 256) (count : BSrc)
  -- Counters: score table and reads
  | sacc (h : Hd) (op : SaccOp) (a : VR) (b : BSrc)
  | topk (h : Hd) (sa : SR) (b : BSrc)
  | cntrd (h : Hd) (sd : SR) (id : BitVec 8)
  | cntclr (h : Hd) (id : BitVec 8)
  -- Registers VI: control flow (R239 to R243)
  | bra (h : Hd) (off : Word)
  | brez (h : Hd) (off : Word)
  | brx (h : Hd) (n : SR)
  | call (h : Hd) (d : VR) (off : BitVec 24)
  | ret (h : Hd) (a : VR)
  | exit (h : Hd)
  | empush (h : Hd) (sd : SR) (pn : PR) (neg : Bool)
  | emflip (h : Hd) (sd : SR)
  | empop (h : Hd) (sd : SR)
  -- Registers VI: traps and CSRs (R244 to R246)
  | trap (h : Hd) (code : BSrc)
  | bkpt (h : Hd) (code : BSrc)
  | tret (h : Hd)
  | tretSkip (h : Hd)
  | tretEmu (h : Hd) (a : VR)
  | csrr (h : Hd) (d : VR) (csr : BitVec 12)
  | csrw (h : Hd) (csr : BitVec 12) (b : BSrc)
  -- Opcode maps (R83, R84): the two words as fetched
  | extensionOpcode (w0 w1 : BitVec 64)
  -- The Capstan and its engine
  | bundleIssue (b : Bundle)
  | exposedResultLand (gid seq : Nat)
  | sldWriteLand (gid entry : Nat)
  | mmaStart (gid : Nat)
  | scoreboardReadRelease (gid seq : Nat)
  | mmaComplete (gid : Nat)
  | coreFreezeEnd (gid : Nat)
  -- Strand waits and landings; `who` is the strand index, or none for the Capstan
  | strandResultLand (gid j : Nat)
  | takeComplete (gid : Nat) (who : Option Nat)
  | clwaitComplete (gid : Nat) (who : Option Nat)
  | waitpComplete (gid : Nat) (who : Option Nat)
  | joinComplete (gid j : Nat)
  | tkstatWaitComplete (gid j : Nat)
  | launchAccept (gid j : Nat)
  | belayTakeEffect (gid j : Nat)
  | schedTakeEffect (gid j : Nat)
  | stepPropagate (ctx : Nat)
  -- Memory
  | memoryQueueSend (ag : Agent) (store : Bool)
  | memoryAccessPerform (ag : Agent) (seq part : Nat)
  | pageWalkComplete (core ix : Nat)
  | l2Fill (ctx : Option Nat) (va pa : Nat) (newStep newSched : Bool)
  | eccCorrectableError (die : Nat)
  | eccUncorrectableError (place : EccPlace)
  -- Splice
  | spliceBuildStart (ctx va : Nat) (by_ : Option Nat)
  | spliceBuildAdmit (ctx va : Nat)
  | spliceChainAbort (chain : Nat)
  -- Traps and debugging
  | strandTrapEntry (gid j : Nat)
  | capstanTrap (gid : Nat)
  | capstanTrapDelivery (gid : Nat)
  | debugHalt (gid : Nat)
  | debugResume (gid : Nat)
  -- Queues and the distributor
  | queueTailDoorbell (tenant q : Nat) (tail : Word)
  | queueConfigWrite (tenant q : Nat) (word : Fin 3) (v : DWord)
  | distributorRecordRead (tenant q : Nat)
  | dependencePoll (grid : Nat)
  | gridFetchComplete (grid : Nat)
  | placementPass
  | groupEnd (gid : Nat)
  | gridCompletionStep (grid : Nat)
  | timeSliceExpiry (ctx : Nat)
  | preemption (gid : Nat)
  | joinSwapOut (gid j : Nat)
  | waiterConversion (gid : Nat)
  | conversionRetry (gid : Nat)
  | pregraceExpiry (gid : Nat)
  | groupResume (gid : Nat)
  | snapshotEntryLand (gid seq : Nat)
  | cleatArrival (core cleat : Nat)
  | barPhaseComplete (gid b : Nat)
  | powerGovernorFreeze (core : Nat)
  -- Windlass, fabric and collectives
  | windlassCopyStart (core ch : Nat)
  | windlassCopyComplete (core ch : Nat)
  | fabricWriteReceive (tenant fjob va : Nat) (bytes : List Byte)
  | fabricWriteReport (core ch : Nat) (refusedAt : Option Nat)
  | collDataReceive (tackle : Nat) (msg : CollMsg)
  | collComplete (tackle seq : Nat)
  | collTimeout (tackle : Nat)
  | hawserAbortReceive (tackle gen crank ecode : Nat)
  | hawserReformReceive (tackle gen rank : Nat) (hash : Nat)
  | tkreformComplete (gid j : Nat)
  | hawserLinkFail (port : Nat)
  -- The host, the pager and the control node
  | hostMemoryWrite (tenant pa : Nat) (bytes : List Byte)
  | hostMemoryRead (tenant pa len : Nat) (bulk : Bool)
  | pgdoneWrite (tenant : Nat) (number : Word)
  | ctxcmdInvalidate (tenant ctxid : Nat)
  | invalidationComplete (tenant : Nat)
  | ctxcmdWatchdog (tenant ctxid : Nat)
  | irqpendClear (tenant : Nat) (bits : DWord)
  | irqmaskWrite (tenant : Nat) (v : DWord)
  | evtpendClear (tenant : Nat) (bits : BitVec 3)
  | kvRegisterWrite (tenant : Nat) (ix : Fin 7) (v : DWord)
  | attestationRequest (tenant : Nat) (addr : DWord)
  | attestationReport (tenant : Nat)
  | cecntClear (die : Nat)
  | perfselWrite (core : Nat) (v : BitVec 128)
  | hostRegisterWrite (tenant : Option Nat) (off : Nat) (v : DWord)
  | thermalTrip
  | thermalTripClear
  | deviceReset (images : List Image)
  | hawserLinkTrained (port : Nat)
  | heldReformExpiry (tackle : Nat)
  deriving DecidableEq, Repr

end Sys2Proof
end

