-- ==== Sys2Proof/WellFormed.lean ====
section
/-! DEFINITION. Which instructions the encodings admit (R56, R79 and each entry's own limits). -/

namespace Sys2Proof

/-- Elements in a 32-bit word (R89); an F64 operand counts as one element of its pair (R174). -/
def Fmt.elems : Fmt → Nat
  | .f32 | .i32 | .ui32 | .b32 | .f64 => 1
  | .f16 | .bf16 | .i16 => 2
  | .m8 | .e4m3 | .e5m2 | .i8 | .ui8 => 4
  | .fp4 | .i4 => 8

/-- F32, F16, BF16 (R79). -/
def Fmt.isF3 : Fmt → Bool
  | .f32 | .f16 | .bf16 => true
  | _ => false

/-- F32, F16, BF16, F64 (R79). -/
def Fmt.isF4 : Fmt → Bool
  | .f32 | .f16 | .bf16 | .f64 => true
  | _ => false

/-- The formats with significance counts that SIGQ and FCLASS take (R79). -/
def Fmt.isSig : Fmt → Bool
  | .f32 | .f16 | .bf16 | .m8 | .fp4 | .f64 => true
  | _ => false

/-- Floating-point formats: every format with a significance count (R112). -/
def Fmt.isFloat : Fmt → Bool
  | .f32 | .f16 | .bf16 | .m8 | .fp4 | .e4m3 | .e5m2 | .f64 => true
  | _ => false

/-- An even register number (R90). -/
def evenV (n : VR) : Bool := n.val % 2 == 0
/-- An even uniform register number. -/
def evenS (n : SR) : Bool := n.val % 2 == 0

/-- B is no V register. -/
def BSrc.notV : BSrc → Bool
  | .v _ => false
  | _ => true

/-- B is an immediate. -/
def BSrc.isImm : BSrc → Bool
  | .imm8 _ | .imm32 _ => true
  | _ => false

/-- B is a uniform register or an immediate, and an even pair in the first case. -/
def BSrc.pairOrImm : BSrc → Bool
  | .v _ => false
  | .s n => evenS n
  | _ => true

/-- B under FMT: R51 forbids an immediate for the 8-bit and 4-bit float formats, R90 and R157 ask for an even F64 pair. -/
def BSrc.okFor (b : BSrc) (f : Fmt) : Bool :=
  match f with
  | .m8 | .fp4 | .e4m3 | .e5m2 => !b.isImm
  | .f64 => match b with
    | .v n => evenV n
    | .s n => evenS n
    | _ => true
  | _ => true

/-- A V register under FMT: even when FMT is F64 (R90). -/
def vOk (f : Fmt) (n : VR) : Bool := f != .f64 || evenV n

/-- A combining field (R144, R168): with no combination its other bits are zero. -/
def Comb.ok (c : Comb) : Bool := c.op != .none || (!c.neg && c.p == 0)

/-- No modifier but those named. -/
def Mods.only (m : Mods) (na nb abs sat : Bool) : Bool :=
  (na || !m.na) && (nb || !m.nb) && (abs || !m.abs) && (sat || !m.sat)

/-- The data register of an access of width w (R275). -/
def dataOk (w : Width) (d : VR) : Bool :=
  match w with
  | .b64 => d.val % 2 == 0
  | .b128 => d.val % 4 == 0
  | _ => true

/-- The base of a global access: a V base is an even pair (R275). -/
def MBase.globalOk : MBase → Bool
  | .v n => evenV n
  | .s _ => true

/-- Width of at least a word. -/
def Width.wide : Width → Bool
  | .b8 | .b16 => false
  | _ => true

/-- Atomic operation and element type (R283). -/
def aopOk (op : AOp) (f : Fmt) : Bool :=
  match op, f with
  | .add, .f32 | .min, .f32 | .max, .f32 | .exch, .f32 => true
  | .add, .i32 | .min, .i32 | .max, .i32 | .exch, .i32 | .inc, .i32 => true
  | .add, .ui32 | .min, .ui32 | .max, .ui32 | .exch, .ui32 | .inc, .ui32 => true
  | .and, .b32 | .or, .b32 | .xor, .b32 | .exch, .b32 => true
  | _, _ => false

/-- UALU operation, format and SAT (R154). -/
def ualuOk (op : UOp) (f : Fmt) (sat : Bool) : Bool :=
  match op with
  | .add | .sub | .mul => (f == .i32 || f == .ui32 || (f == .f32 && !sat))
  | .min | .max => (f == .i32 || f == .ui32 || f == .f32) && !sat
  | _ => f == .b32 && !sat

/-- The limit on CVT's part number h (R174). -/
def cvtParts (dst src : Fmt) : Nat :=
  if dst.elems = src.elems then 1 else max dst.elems src.elems / min dst.elems src.elems

/-- CSR numbers a strand may read (R247). -/
def csrReadable (n : Nat) : Bool :=
  n ≤ 4 || (0x10 ≤ n && n ≤ 0x17) || (0x20 ≤ n && n ≤ 0x22) || (0x30 ≤ n && n ≤ 0x37) || (0x40 ≤ n && n ≤ 0x44)

/-- CSR numbers a strand may write (R247). -/
def csrWritable (n : Nat) : Bool := n == 0x20 || n == 0x21 || n == 0x22 || n == 0x40

/-- Counter ids of 64 bits (R431). -/
def cnt64 (n : Nat) : Bool := n == 0x0A || n == 0x0B || (0x30 ≤ n && n ≤ 0x3F)

/-- Counter ids CNTRD reads (R431). -/
def cntReadable (n : Nat) : Bool := n ≤ 0x0C || (0x10 ≤ n && n ≤ 0x3F)

/-- Counter ids CNTCLR clears (R431). -/
def cntClearable (n : Nat) : Bool := (8 ≤ n && n ≤ 0x0C) || n == 0x40

/-- What every strand word's encoding checks ask of an extension word (R84): the checks of R56 on bits 1:0,
BK, FMT, SW and the long form, and a zero second word in the short form. -/
def extWf (w0 w1 : BitVec 64) : Bool :=
  let bk := w0.extractLsb' 14 2
  let l := w0.getLsbD 3
  w0.extractLsb' 60 4 == 15#4 && w0.extractLsb' 0 2 == 0#2 && bk != 3#2 && w0.extractLsb' 52 4 != 15#4 &&
  (bk == 1#2 || w0.extractLsb' 12 2 == 0#2) &&
  (if l then bk == 2#2 && w0.extractLsb' 24 8 == 0#8 && w1.extractLsb' 32 32 == 0#32 else w1 == 0#64)

/-- The well-formed instructions: those some word encodes. Events and bundles carry no such limit. -/
def Instr.wf : Instr → Bool
  | .iadd _ f _ _ _ na nb _ =>
      match f with
      | .i32 | .i16 | .i8 => true
      | .ui32 | .ui8 => !na && !nb
      | _ => false
  | .isub _ f _ _ _ _ | .imin _ f _ _ _ | .imax _ f _ _ _ =>
      f == .i32 || f == .ui32 || f == .i16 || f == .i8 || f == .ui8
  | .imul _ f _ _ _ _ | .imulh _ f _ _ _ | .imad _ f _ _ _ _ _ => f == .i32 || f == .ui32 || f == .i16
  | .bfe _ f _ _ _ => f == .i32 || f == .ui32
  | .isetp _ f cmp _ _ _ comb => (f == .i32 || f == .ui32) && cmp != .num && cmp != .nan && comb.ok
  | .iadd64 _ d a b _ => evenV d && evenV a && b.okFor .f64
  | .lea _ _ d a _ _ => evenV d && evenV a
  | .idp4 _ f _ _ _ _ _ _ => f == .i8 || f == .ui8
  | .mov _ f d b => vOk f d && b.okFor f
  | .sel _ f d a b _ _ => vOk f d && vOk f a && b.okFor f
  | .emwr _ b => b.notV
  | .prmov _ op => match op with
    | .unpack _ m => m.notV
    | _ => true
  | .ualu _ f op sat _ _ b => b.notV && ualuOk op f sat
  | .umov _ _ _ b => b.notV
  | .fadd _ f mode _ d a b | .fmul _ f mode _ d a b =>
      f.isF4 && mode != .rs && vOk f d && vOk f a && b.okFor f
  | .ffma _ f mode _ d a b c => f.isF4 && mode != .rs && vOk f d && vOk f a && b.okFor f && vOk f c
  | .fmin _ f m d a b | .fmax _ f m d a b =>
      f.isF4 && m.only true true true false && vOk f d && vOk f a && b.okFor f
  | .fdiv _ f mode _ d a b => (f == .f32 || f == .f64) && mode != .rs && vOk f d && vOk f a && b.okFor f
  | .fsetp _ f _ m _ a b comb e =>
      f.isF4 && m.only true true true false && vOk f a && b.okFor f && comb.ok && (!e || f == .f16 || f == .bf16)
  | .frcp _ f mode m d a => f.isF4 && mode != .rs && m.only true false true true && vOk f d && vOk f a
  | .fsqrt _ f mode m d a => f.isF4 && mode != .rs && m.only true false true false && vOk f d && vOk f a
  | .fexp2 _ f mode m _ _ => f.isF3 && mode != .rs && m.only true false true true
  | .frsq _ f mode m _ _ | .flog2 _ f mode m _ _ | .fsin _ f mode m _ _ | .fcos _ f mode m _ _
  | .ftanh _ f mode m _ _ => f.isF3 && mode != .rs && m.only true false true false
  | .fclass _ f _ a => f.isSig && vOk f a
  | .fdot2 _ f mode m _ _ _ _ => (f == .f16 || f == .bf16) && mode != .rs && m.only true true false true
  | .cvt _ dst src mode m d a part =>
      dst != .b32 && src != .b32 && dst != src && m.only true false true true && vOk dst d && vOk src a &&
      part.val < cvtParts dst src && (mode != .rs || (dst.isFloat && dst != .f64))
  | .qnt _ f _ _ _ _ _ part => (f == .m8 || f == .fp4 || f == .i8) && part.val < f.elems
  | .dqnt _ f mode _ _ _ part => (f == .m8 || f == .fp4 || f == .i8) && mode != .rs && part.val < f.elems
  | .angrot _ op d a _ _ => match op with
    | .rot => evenV d && evenV a
    | _ => a == 0
  | .nanpl _ f _ _ e => f.isF3 && (!e || f != .f32)
  | .sigq _ f s _ a _ comb => f.isSig && vOk f a && s.val ≤ f.elems && comb.ok
  | .sigget _ f _ a k => f.isSig && vOk f a && k.val < f.elems
  | .sigset _ f d _ k => f.isSig && vOk f d && k.val < f.elems
  | .sigmin _ f _ a => f.isSig && vOk f a
  | .ld _ w sx _ d base _ _ => dataOk w d && base.globalOk && (!sx || !w.wide)
  | .st _ w d base _ _ => dataOk w d && base.globalOk
  | .lds _ w sx d _ _ _ => dataOk w d && (!sx || !w.wide)
  | .sts _ w d _ _ _ => dataOk w d
  | .ldt _ w _ d base _ _ | .stt _ w d base _ _ => w.wide && dataOk w d && base.globalOk
  | .atom _ op f _ _ _ base _ _ => aopOk op f && base.globalOk
  | .atoms _ op f _ _ _ _ _ => aopOk op f
  | .red _ op f ord _ base _ _ => aopOk op f && op != .exch && (ord == .rlx || ord == .rel) && base.globalOk
  | .cas _ wide _ _ d base _ c => base.globalOk && (!wide || (evenV d && evenV c))
  | .cass _ wide _ d _ _ c => !wide || (evenV d && evenV c)
  | .pref _ _ base _ => base.globalOk
  | .prefr _ _ len | .cmo _ _ _ _ len => len.notV
  | .ldh _ w d _ _ _ => w.wide && dataOk w d
  | .barSync _ _ n | .barArrive _ _ n => n.notV
  | .clarm _ _ _ n | .clarv _ _ _ _ n | .clwait _ _ _ _ n => n.notV
  | .waitp _ _ v => v.notV
  | .join _ _ _ v => v.pairOrImm
  | .coll _ f _ _ _ m =>
      (match f with
       | .f32 | .f16 | .bf16 | .i32 | .ui32 | .b32 => true
       | _ => false) && evenS m
  | .tkstat _ sd _ t | .tkstatWait _ sd _ t => evenS sd && t.notV
  | .tkreform _ _ _ m => evenS m
  | .htrans _ d _ _ => evenV d
  | .kvapp _ sx _ | .kvfork _ sx _ _ | .kvmove _ sx _ => evenS sx
  | .kvsetMap _ _ _ p | .kvsetAbsent _ _ p => p.notV
  | .kvsetNew _ sx _ p => evenS sx && p.notV
  | .belayAdd _ _ _ n | .belayDrop _ _ _ n | .retireRcp _ _ _ n | .retireBly _ _ _ n | .sched _ _ _ n => n.notV
  | .rcpqState _ _ a => evenV a
  | .rcpqStep _ d a => evenV d && evenV a
  | .topk _ _ b => b.notV
  | .cntrd _ sd id => cntReadable id.toNat && (!cnt64 id.toNat || evenS sd)
  | .cntclr _ id => cntClearable id.toNat
  | .brx _ n => evenS n
  | .call _ d _ => evenV d
  | .ret _ a => evenV a
  | .trap _ c | .bkpt _ c => c.isImm
  | .csrr _ _ n => csrReadable n.toNat
  | .csrw _ n b => csrWritable n.toNat && b.notV
  | .extensionOpcode w0 w1 => extWf w0 w1
  | _ => true

end Sys2Proof
end

