-- ==== Sys2Proof/Decode.lean ====
section
/-! DEFINITION. Decoding and encoding of strand words (R49 to R57, R78 to R87) and of bundles (R58 to R60).

A word decodes when its operation code, format and sub-operation read as an instruction, the instruction is
well-formed, and the instruction's own encoding is the word again. The last condition is R56's "an operand field
that the instruction does not use is not zero". -/

namespace Sys2Proof

/-- The fields of a strand instruction (R49, R52). `md` is bits 7:4; `imm` and `hi` are the halves of the second
word, zero in the short form. -/
structure Fields where
  op : BitVec 8
  fmt : BitVec 4
  g : BitVec 4
  d : BitVec 8
  a : BitVec 8
  b : BitVec 8
  c : BitVec 8
  bk : BitVec 2
  sw : BitVec 2
  sub : BitVec 4
  md : BitVec 4
  l : BitVec 1
  y : BitVec 1
  z : BitVec 2
  imm : BitVec 32
  hi : BitVec 32
  deriving DecidableEq, Repr

/-- Why a strand word is no instruction. Every one of them is the ILLEGAL_OPCODE of R56 (R87). -/
inductive Reject
  /-- fewer bytes than the instruction has -/
  | short
  /-- R87 step 1 -/
  | noInstruction
  /-- R84 -/
  | extensionField
  /-- R87 step 3 -/
  | field
  deriving DecidableEq, Repr

/-! ### Codes -/

/-- FMT codes (R79). -/
def Fmt.code : Fmt → BitVec 4
  | .f32 => 0 | .f16 => 1 | .bf16 => 2 | .m8 => 3 | .fp4 => 4 | .e4m3 => 5 | .e5m2 => 6 | .i32 => 7
  | .ui32 => 8 | .i16 => 9 | .i8 => 10 | .ui8 => 11 | .i4 => 12 | .f64 => 13 | .b32 => 14

/-- The format an FMT code names; code 15 names none (R56). -/
def Fmt.ofCode (c : BitVec 4) : Option Fmt :=
  match c.toNat with
  | 0 => some .f32 | 1 => some .f16 | 2 => some .bf16 | 3 => some .m8 | 4 => some .fp4 | 5 => some .e4m3
  | 6 => some .e5m2 | 7 => some .i32 | 8 => some .ui32 | 9 => some .i16 | 10 => some .i8 | 11 => some .ui8
  | 12 => some .i4 | 13 => some .f64 | 14 => some .b32 | _ => none

/-- Rounding-mode codes (R97). -/
def RMode.code : RMode → Nat
  | .rn => 0 | .rz => 1 | .ru => 2 | .rd => 3 | .rs => 4

/-- The mode a code names (R97, R158). -/
def RMode.fromCode : Nat → Option RMode
  | 0 => some .rn | 1 => some .rz | 2 => some .ru | 3 => some .rd | 4 => some .rs | _ => none

/-- Comparison codes (R144, R168). -/
def Cmp.code : Cmp → Nat
  | .eq => 0 | .ne => 1 | .lt => 2 | .le => 3 | .gt => 4 | .ge => 5 | .num => 6 | .nan => 7

/-- The comparison a code names. -/
def Cmp.fromCode : Nat → Option Cmp
  | 0 => some .eq | 1 => some .ne | 2 => some .lt | 3 => some .le | 4 => some .gt | 5 => some .ge
  | 6 => some .num | 7 => some .nan | _ => none

/-- Combination codes (R144). -/
def CombOp.code : CombOp → BitVec 2
  | .none => 0 | .and => 1 | .or => 2 | .xor => 3

/-- The combination a code names. -/
def CombOp.ofCode (c : BitVec 2) : CombOp :=
  if c = 0 then .none else if c = 1 then .and else if c = 2 then .or else .xor

/-- SHFL mode codes (R149). -/
def ShflMode.code : ShflMode → BitVec 4
  | .idx => 0 | .up => 1 | .down => 2 | .xor => 3

/-- The SHFL mode a code names. -/
def ShflMode.fromCode : Nat → Option ShflMode
  | 0 => some .idx | 1 => some .up | 2 => some .down | 3 => some .xor | _ => none

/-- VOTE mode codes (R150). -/
def VoteMode.code : VoteMode → BitVec 4
  | .all => 0 | .any => 1 | .uni => 2

/-- The VOTE mode a code names. -/
def VoteMode.fromCode : Nat → Option VoteMode
  | 0 => some .all | 1 => some .any | 2 => some .uni | _ => none

/-- RDSPEC numbers (R151). -/
def Spec.code : Spec → BitVec 8
  | .lane => 0 | .strandix => 1 | .role => 2 | .threadix => 3 | .roleix => 4 | .coreslot => 5 | .partition => 6
  | .vcyclo => 7 | .vcychi => 8 | .ntiles => 9

/-- The special value a number names. -/
def Spec.fromCode : Nat → Option Spec
  | 0 => some .lane | 1 => some .strandix | 2 => some .role | 3 => some .threadix | 4 => some .roleix
  | 5 => some .coreslot | 6 => some .partition | 7 => some .vcyclo | 8 => some .vcychi | 9 => some .ntiles
  | _ => none

/-- UALU codes (R154). -/
def UOp.code : UOp → BitVec 4
  | .add => 0 | .sub => 1 | .mul => 2 | .min => 3 | .max => 4 | .and => 5 | .or => 6 | .xor => 7
  | .shl => 8 | .shr => 9 | .sar => 10

/-- The UALU operation a code names. -/
def UOp.fromCode : Nat → Option UOp
  | 0 => some .add | 1 => some .sub | 2 => some .mul | 3 => some .min | 4 => some .max | 5 => some .and
  | 6 => some .or | 7 => some .xor | 8 => some .shl | 9 => some .shr | 10 => some .sar | _ => none

/-- Width codes (R275). -/
def Width.code : Width → BitVec 3
  | .b8 => 0 | .b16 => 1 | .b32 => 2 | .b64 => 3 | .b128 => 4

/-- The width a code names. -/
def Width.fromCode : Nat → Option Width
  | 0 => some .b8 | 1 => some .b16 | 2 => some .b32 | 3 => some .b64 | 4 => some .b128 | _ => none

/-- Bytes of a width. -/
def Width.bytes : Width → Nat
  | .b8 => 1 | .b16 => 2 | .b32 => 4 | .b64 => 8 | .b128 => 16

/-- Atomic operation codes (R283). -/
def AOp.code : AOp → BitVec 3
  | .add => 0 | .min => 1 | .max => 2 | .and => 3 | .or => 4 | .xor => 5 | .exch => 6 | .inc => 7

/-- The atomic operation a code names. -/
def AOp.fromCode : Nat → AOp
  | 0 => .add | 1 => .min | 2 => .max | 3 => .and | 4 => .or | 5 => .xor | 6 => .exch | _ => .inc

/-- Order codes (R275). -/
def Order.code : Order → BitVec 2
  | .rlx => 0 | .acq => 1 | .rel => 2 | .acqrel => 3

/-- The order a code names. -/
def Order.fromCode : Nat → Order
  | 0 => .rlx | 1 => .acq | 2 => .rel | _ => .acqrel

/-- Scope codes (R275, R307). -/
def Scope.code : Scope → BitVec 2
  | .core => 0 | .gang => 1 | .dev => 2 | .sys => 3

/-- The scope a code names. -/
def Scope.fromCode : Nat → Scope
  | 0 => .core | 1 => .gang | 2 => .dev | _ => .sys

/-- CMO operation codes (R289). -/
def CmoOp.code : CmoOp → BitVec 4
  | .clean => 8 | .inval => 9 | .cleaninval => 10

/-- The CMO operation a SUB value names (SUB[3] is 1). -/
def CmoOp.fromCode : Nat → Option CmoOp
  | 8 => some .clean | 9 => some .inval | 10 => some .cleaninval | _ => none

/-- CMO level codes, in MOD[5:4] (R289). -/
def CmoLevel.code : CmoLevel → BitVec 4
  | .l1 => 0 | .l2 => 1 | .mem => 2

/-- The CMO level a code names. -/
def CmoLevel.fromCode : Nat → Option CmoLevel
  | 0 => some .l1 | 1 => some .l2 | 2 => some .mem | _ => none

/-- Path numbers (R417). -/
def Path.code : Path → BitVec 4
  | .ld => 0 | .st => 1 | .sh => 2 | .w0 => 3 | .w1 => 4 | .coll => 5 | .rcp => 6 | .lch => 7

/-- The path a number names. -/
def Path.fromCode : Nat → Option Path
  | 0 => some .ld | 1 => some .st | 2 => some .sh | 3 => some .w0 | 4 => some .w1 | 5 => some .coll
  | 6 => some .rcp | 7 => some .lch | _ => none

/-- Collective kind codes (R362). -/
def CollKind.code : CollKind → BitVec 4
  | .allreduce => 0 | .redscat => 1 | .allgather => 2 | .bcast => 3 | .alltoall => 4 | .barrier => 5

/-- The collective kind a code names. -/
def CollKind.fromCode : Nat → Option CollKind
  | 0 => some .allreduce | 1 => some .redscat | 2 => some .allgather | 3 => some .bcast | 4 => some .alltoall
  | 5 => some .barrier | _ => none

/-- SACC codes (R429). -/
def SaccOp.code : SaccOp → BitVec 4
  | .add => 0 | .max => 1 | .set => 2

/-- The SACC operation a code names. -/
def SaccOp.fromCode : Nat → Option SaccOp
  | 0 => some .add | 1 => some .max | 2 => some .set | _ => none

/-! ### Field builders -/

/-- A Bool as one bit. -/
def bit (b : Bool) : BitVec 1 := BitVec.ofBool b

/-- The byte that holds a V register number. -/
def vByte (n : VR) : BitVec 8 := BitVec.ofFin n
/-- The low byte of a uniform register number. -/
def sByte (n : SR) : BitVec 8 := BitVec.ofNat 8 n.val
/-- The window of a uniform register number, n >> 8 (R50). -/
def sWin (n : SR) : BitVec 2 := BitVec.ofNat 2 (n.val / 256)
/-- The window in C[1:0], the rest of C zero (R154). -/
def sWinC (n : SR) : BitVec 8 := (0 : BitVec 6) ++ sWin n
/-- A predicate number in bits 2:0 of a byte. -/
def pByte (n : PR) : BitVec 8 := (0 : BitVec 5) ++ (BitVec.ofFin n : BitVec 3)
/-- A predicate with its negation in bit 3 (R146, R150). -/
def pnByte (neg : Bool) (n : PR) : BitVec 8 := (0 : BitVec 4) ++ bit neg ++ (BitVec.ofFin n : BitVec 3)
/-- The MOD bits (R49). -/
def Mods.code (m : Mods) : BitVec 4 := bit m.na ++ bit m.nb ++ bit m.abs ++ bit m.sat
/-- A combining field with the element selector of FSETP in bit 6 (R144, R168). -/
def Comb.code (c : Comb) (e : Bool) : BitVec 8 :=
  (0 : BitVec 1) ++ bit e ++ bit c.neg ++ c.op.code ++ (BitVec.ofFin c.p : BitVec 3)

/-- The base of a memory operand: the byte A. -/
def MBase.byte : MBase → BitVec 8
  | .v n => BitVec.ofFin n
  | .s n => BitVec.ofFin n
/-- The base kind, SUB[3] (R275). -/
def MBase.kind : MBase → BitVec 1
  | .v _ => 0
  | .s _ => 1

/-- The word built from the fields every entry names; BK, SW, L and the second word come from B (R50, R52). -/
def enc (op : BitVec 8) (f : Fmt) (h : Hd) (d a : BitVec 8) (b : BSrc) (c : BitVec 8) (sub md : BitVec 4) :
    Fields :=
  let r : Fields :=
    { op, fmt := f.code, g := bit h.neg ++ (BitVec.ofFin h.p : BitVec 3), d, a, b := 0, c, bk := 0, sw := 0, sub, md,
      l := 0, y := bit h.y, z := 0, imm := 0, hi := 0 }
  match b with
  | .v n => { r with b := vByte n }
  | .s n => { r with b := sByte n, sw := sWin n, bk := 1 }
  | .imm8 n => { r with b := n, bk := 2 }
  | .imm32 w => { r with bk := 2, l := 1, imm := w }

/-- The B field of an entry that shows "—" (R135): B, BK and SW zero. -/
def noB : BSrc := .v 0

/-- The fields of a strand instruction's encoding; none for a bundle, an extension word or an event. -/
def encodeFields : Instr → Option Fields
  | .nop h => some (enc 0x00 .b32 h 0 0 noB 0 0 0)
  | .iadd h f d a b na nb sat => some (enc 0x01 f h (vByte d) (vByte a) b 0 0 (Mods.code ⟨na, nb, false, sat⟩))
  | .isub h f d a b sat => some (enc 0x02 f h (vByte d) (vByte a) b 0 0 (Mods.code ⟨false, false, false, sat⟩))
  | .imul h f d a b sat => some (enc 0x03 f h (vByte d) (vByte a) b 0 0 (Mods.code ⟨false, false, false, sat⟩))
  | .imulh h f d a b => some (enc 0x04 f h (vByte d) (vByte a) b 0 0 0)
  | .imad h f d a b c sat => some (enc 0x05 f h (vByte d) (vByte a) b (vByte c) 0 (Mods.code ⟨false, false, false, sat⟩))
  | .imin h f d a b => some (enc 0x06 f h (vByte d) (vByte a) b 0 0 0)
  | .imax h f d a b => some (enc 0x07 f h (vByte d) (vByte a) b 0 0 0)
  | .band h d a b => some (enc 0x08 .b32 h (vByte d) (vByte a) b 0 0 0)
  | .bor h d a b => some (enc 0x09 .b32 h (vByte d) (vByte a) b 0 0 0)
  | .bxor h d a b => some (enc 0x0A .b32 h (vByte d) (vByte a) b 0 0 0)
  | .blut h d a b c tab => some (enc 0x0B .b32 h (vByte d) (vByte a) b (vByte c) (tab.extractLsb' 4 4) (tab.extractLsb' 0 4))
  | .shl h d a b => some (enc 0x0C .b32 h (vByte d) (vByte a) b 0 0 0)
  | .shr h d a b => some (enc 0x0D .b32 h (vByte d) (vByte a) b 0 0 0)
  | .sar h d a b => some (enc 0x0E .b32 h (vByte d) (vByte a) b 0 0 0)
  | .shd h left md d a b c => some (enc 0x0F .b32 h (vByte d) (vByte a) b (vByte c) ((0 : BitVec 2) ++ bit md ++ bit left) 0)
  | .popc h d a => some (enc 0x10 .b32 h (vByte d) (vByte a) noB 0 0 0)
  | .clz h d a => some (enc 0x11 .b32 h (vByte d) (vByte a) noB 0 0 0)
  | .brev h d a => some (enc 0x12 .b32 h (vByte d) (vByte a) noB 0 0 0)
  | .bfe h f d a b => some (enc 0x13 f h (vByte d) (vByte a) b 0 0 0)
  | .bfi h d a b c => some (enc 0x14 .b32 h (vByte d) (vByte a) b (vByte c) 0 0)
  | .isetp h f cmp pd a b comb => some (enc 0x15 f h (pByte pd) (vByte a) b (comb.code false) (BitVec.ofNat 4 cmp.code) 0)
  | .iadd64 h d a b nb => some (enc 0x16 .i32 h (vByte d) (vByte a) b 0 0 (Mods.code ⟨false, nb, false, false⟩))
  | .lea h u d a b sh => some (enc 0x17 .i32 h (vByte d) (vByte a) b 0 (bit u ++ (BitVec.ofFin sh : BitVec 3)) 0)
  | .idp4 h f mix sat d a b c => some (enc 0x18 f h (vByte d) (vByte a) b (vByte c) ((0 : BitVec 3) ++ bit mix) (Mods.code ⟨false, false, false, sat⟩))
  | .mov h f d b => some (enc 0x20 f h (vByte d) 0 b 0 0 0)
  | .sel h f d a b pc neg => some (enc 0x21 f h (vByte d) (vByte a) b (pnByte neg pc) 0 0)
  | .shfl h mode d a b logw => some (enc 0x22 .b32 h (vByte d) (vByte a) b (BitVec.ofNat 8 logw.val) mode.code 0)
  | .vote h mode pd pa neg => some (enc 0x23 .b32 h (pByte pd) (pnByte neg pa) noB 0 mode.code 0)
  | .ballot h d pa neg => some (enc 0x24 .b32 h (vByte d) (pnByte neg pa) noB 0 0 0)
  | .rdspec h d name => some (enc 0x25 .b32 h (vByte d) name.code noB 0 0 0)
  | .emrd h live sd => some (enc 0x26 .b32 h (sByte sd) 0 noB (sWinC sd) ((0 : BitVec 3) ++ bit live) 0)
  | .emwr h b => some (enc 0x27 .b32 h 0 0 b 0 0 0)
  | .prmov h (.pack d) => some (enc 0x28 .b32 h (vByte d) 0 noB 0 0 0)
  | .prmov h (.unpack a m) => some (enc 0x28 .b32 h 0 (vByte a) m 0 1 0)
  | .prmov h (.copy pd pa neg) => some (enc 0x28 .b32 h (pByte pd) (pnByte neg pa) noB 0 2 0)
  | .ualu h f op sat sd sa b => some (enc 0x29 f h (sByte sd) (sByte sa) b ((0 : BitVec 4) ++ sWin sa ++ sWin sd) op.code (Mods.code ⟨false, false, false, sat⟩))
  | .umov h sd none b => some (enc 0x2A .b32 h (sByte sd) 0 b (sWinC sd) 0 0)
  | .umov h sd (some a) b => some (enc 0x2A .b32 h (sByte sd) (vByte a) b (sWinC sd) 1 0)
  | .fadd h f mode m d a b => some (enc 0x30 f h (vByte d) (vByte a) b 0 (BitVec.ofNat 4 mode.code) m.code)
  | .fmul h f mode m d a b => some (enc 0x31 f h (vByte d) (vByte a) b 0 (BitVec.ofNat 4 mode.code) m.code)
  | .ffma h f mode m d a b c => some (enc 0x32 f h (vByte d) (vByte a) b (vByte c) (BitVec.ofNat 4 mode.code) m.code)
  | .fmin h f m d a b => some (enc 0x33 f h (vByte d) (vByte a) b 0 0 m.code)
  | .fmax h f m d a b => some (enc 0x34 f h (vByte d) (vByte a) b 0 0 m.code)
  | .fsetp h f cmp m pd a b comb e => some (enc 0x35 f h (pByte pd) (vByte a) b (comb.code e) (BitVec.ofNat 4 cmp.code) m.code)
  | .frcp h f mode m d a => some (enc 0x36 f h (vByte d) (vByte a) noB 0 (BitVec.ofNat 4 mode.code) m.code)
  | .fsqrt h f mode m d a => some (enc 0x37 f h (vByte d) (vByte a) noB 0 (BitVec.ofNat 4 mode.code) m.code)
  | .frsq h f mode m d a => some (enc 0x38 f h (vByte d) (vByte a) noB 0 (BitVec.ofNat 4 mode.code) m.code)
  | .fexp2 h f mode m d a => some (enc 0x39 f h (vByte d) (vByte a) noB 0 (BitVec.ofNat 4 mode.code) m.code)
  | .flog2 h f mode m d a => some (enc 0x3A f h (vByte d) (vByte a) noB 0 (BitVec.ofNat 4 mode.code) m.code)
  | .fsin h f mode m d a => some (enc 0x3B f h (vByte d) (vByte a) noB 0 (BitVec.ofNat 4 mode.code) m.code)
  | .fcos h f mode m d a => some (enc 0x3C f h (vByte d) (vByte a) noB 0 (BitVec.ofNat 4 mode.code) m.code)
  | .ftanh h f mode m d a => some (enc 0x3D f h (vByte d) (vByte a) noB 0 (BitVec.ofNat 4 mode.code) m.code)
  | .fdiv h f mode m d a b => some (enc 0x3E f h (vByte d) (vByte a) b 0 (BitVec.ofNat 4 mode.code) m.code)
  | .fclass h f d a => some (enc 0x3F f h (vByte d) (vByte a) noB 0 0 0)
  | .fdot2 h f mode m d a b c => some (enc 0x40 f h (vByte d) (vByte a) b (vByte c) (BitVec.ofNat 4 mode.code) m.code)
  | .cvt h dst src mode m d a part => some (enc 0x41 dst h (vByte d) (vByte a) noB (BitVec.ofNat 8 (mode.code + 8 * part.val)) src.code m.code)
  | .qnt h f mode sat d a b part => some (enc 0x42 f h (vByte d) (vByte a) b (BitVec.ofNat 8 (mode.code + 8 * part.val)) 0 (Mods.code ⟨false, false, false, sat⟩))
  | .dqnt h f mode d a b part => some (enc 0x43 f h (vByte d) (vByte a) b (BitVec.ofNat 8 (mode.code + 8 * part.val)) 0 0)
  | .angrot h .cos d a b c => some (enc 0x44 .f32 h (vByte d) (vByte a) b (vByte c) 0 0)
  | .angrot h .sin d a b c => some (enc 0x44 .f32 h (vByte d) (vByte a) b (vByte c) 1 0)
  | .angrot h .rot d a b c => some (enc 0x44 .f32 h (vByte d) (vByte a) b (vByte c) 2 0)
  | .nanpl h f d a e => some (enc 0x45 f h (vByte d) (vByte a) noB 0 ((0 : BitVec 3) ++ bit e) 0)
  | .sigq h f s pd a b comb => some (enc 0x50 f h (pByte pd) (vByte a) b (comb.code false) (BitVec.ofNat 4 s.val) 0)
  | .sigget h f d a k => some (enc 0x51 f h (vByte d) (vByte a) noB 0 (BitVec.ofNat 4 k.val) 0)
  | .sigset h f d b k => some (enc 0x52 f h (vByte d) 0 b 0 (BitVec.ofNat 4 k.val) 0)
  | .sigmin h f sd a => some (enc 0x53 f h (sByte sd) (vByte a) noB (sWinC sd) 0 0)
  | .ld h w sx cg d base idx disp => some (enc 0x60 .b32 h (vByte d) base.byte idx disp (base.kind ++ w.code) (bit sx ++ bit cg ++ (0 : BitVec 2)))
  | .st h w d base idx disp => some (enc 0x61 .b32 h (vByte d) base.byte idx disp (base.kind ++ w.code) 0)
  | .lds h w sx d base idx disp => some (enc 0x62 .b32 h (vByte d) base.byte idx disp (base.kind ++ w.code) (bit sx ++ (0 : BitVec 3)))
  | .sts h w d base idx disp => some (enc 0x63 .b32 h (vByte d) base.byte idx disp (base.kind ++ w.code) 0)
  | .ldt h w cg d base idx disp => some (enc 0x64 .b32 h (vByte d) base.byte idx disp (base.kind ++ w.code) ((0 : BitVec 1) ++ bit cg ++ (0 : BitVec 2)))
  | .stt h w d base idx disp => some (enc 0x65 .b32 h (vByte d) base.byte idx disp (base.kind ++ w.code) 0)
  | .atom h op f ord sc d base idx c => some (enc 0x66 f h (vByte d) base.byte idx (vByte c) (base.kind ++ op.code) (ord.code ++ sc.code))
  | .cas h wide ord sc d base idx c => some (enc 0x67 .b32 h (vByte d) base.byte idx (vByte c) (base.kind ++ (1 : BitVec 2) ++ bit wide) (ord.code ++ sc.code))
  | .atoms h op f ord d base idx c => some (enc 0x68 f h (vByte d) base.byte idx (vByte c) (base.kind ++ op.code) (ord.code ++ (0 : BitVec 2)))
  | .cass h wide ord d base idx c => some (enc 0x69 .b32 h (vByte d) base.byte idx (vByte c) (base.kind ++ (1 : BitVec 2) ++ bit wide) (ord.code ++ (0 : BitVec 2)))
  | .red h op f ord sc base idx c => some (enc 0x6A f h 0 base.byte idx (vByte c) (base.kind ++ op.code) (ord.code ++ sc.code))
  | .pref h l2 base idx => some (enc 0x6B .b32 h 0 base.byte idx 0 (base.kind ++ (0 : BitVec 2) ++ bit l2) 0)
  | .prefr h a len => some (enc 0x6C .b32 h 0 (BitVec.ofFin a) len 0 8 0)
  | .cmo h op level a len => some (enc 0x6D .b32 h 0 (BitVec.ofFin a) len 0 op.code level.code)
  | .ldh h w d a pos disp => some (enc 0x6E .b32 h (vByte d) (BitVec.ofFin a) pos disp ((1 : BitVec 1) ++ w.code) 0)
  | .mark h => some (enc 0x80 .b32 h 0 0 noB 0 0 0)
  | .fence h sc => some (enc 0x81 .b32 h 0 0 noB 0 0 ((0 : BitVec 2) ++ sc.code))
  | .barSync h b n => some (enc 0x82 .b32 h 0 (BitVec.ofNat 8 b.val) n 0 0 0)
  | .barArrive h b n => some (enc 0x82 .b32 h 0 (BitVec.ofNat 8 b.val) n 0 1 0)
  | .clarm h pd c n => some (enc 0x83 .b32 h (pByte pd) (BitVec.ofNat 8 c.val) n 0 0 0)
  | .clarmFree h pd c => some (enc 0x83 .b32 h (pByte pd) (BitVec.ofNat 8 c.val) (.imm8 0) 0 1 0)
  | .clarv h gang c pos n => some (enc 0x84 .b32 h 0 (BitVec.ofNat 8 c.val) n (BitVec.ofNat 8 pos.val) 0 ((0 : BitVec 3) ++ bit gang))
  | .clwait h gang pd c n => some (enc 0x85 .b32 h (pByte pd) (BitVec.ofNat 8 c.val) n 0 0 ((0 : BitVec 3) ++ bit gang))
  | .waitp h p v => some (enc 0x86 .b32 h 0 0 v 0 p.code 0)
  | .give h q => some (enc 0x87 .b32 h 0 (BitVec.ofNat 8 q.val) noB 0 0 0)
  | .take h q => some (enc 0x88 .b32 h 0 (BitVec.ofNat 8 q.val) noB 0 0 0)
  | .tqry h slot d b => some (enc 0x89 .b32 h (vByte d) 0 b 0 ((0 : BitVec 3) ++ bit slot) 0)
  | .rgnbeg y => some (enc 0x8A .b32 ⟨false, 7, y⟩ 0 0 noB 0 0 0)
  | .rgnend y => some (enc 0x8B .b32 ⟨false, 7, y⟩ 0 0 noB 0 0 0)
  | .tick h => some (enc 0x8C .b32 h 0 0 noB 0 0 0)
  | .copy h p a => some (enc 0xA0 .b32 h 0 (BitVec.ofNat 8 a.val) noB 0 (BitVec.ofNat 4 p.val) 0)
  | .copyg h p a => some (enc 0xA1 .b32 h 0 (BitVec.ofNat 8 a.val) noB 0 (BitVec.ofNat 4 p.val) 0)
  | .launch h pd a => some (enc 0xA2 .b32 h (pByte pd) (BitVec.ofFin a) noB 0 0 0)
  | .join h pd a v => some (enc 0xA3 .b32 h (pByte pd) (BitVec.ofFin a) v 0 0 0)
  | .coll h f kind sd a m => some (enc 0xA4 f h (sByte sd) (BitVec.ofFin a) (.s m) (sWinC sd) kind.code 0)
  | .tkstat h sd a t => some (enc 0xA5 .b32 h (sByte sd) (BitVec.ofFin a) t (sWinC sd) 0 0)
  | .tkstatWait h sd a t => some (enc 0xA5 .b32 h (sByte sd) (BitVec.ofFin a) t (sWinC sd) 1 0)
  | .tkreform h pd a m => some (enc 0xA6 .b32 h (pByte pd) (BitVec.ofFin a) (.s m) 0 0 0)
  | .htrans h d a pos => some (enc 0xB0 .b32 h (vByte d) (BitVec.ofFin a) pos 0 8 0)
  | .kvapp h sx a => some (enc 0xB1 .b32 h (sByte sx) (BitVec.ofFin a) noB (sWinC sx) 0 0)
  | .kvfork h sx a m => some (enc 0xB2 .b32 h (sByte sx) (BitVec.ofFin a) (.s m) (sWinC sx) 0 0)
  | .kvrel h a => some (enc 0xB3 .b32 h 0 (BitVec.ofFin a) noB 0 0 0)
  | .kvsetMap h sx a p => some (enc 0xB4 .b32 h (sByte sx) (BitVec.ofFin a) p (sWinC sx) 0 0)
  | .kvsetNew h sx a p => some (enc 0xB4 .b32 h (sByte sx) (BitVec.ofFin a) p (sWinC sx) 1 0)
  | .kvsetAbsent h a p => some (enc 0xB4 .b32 h 0 (BitVec.ofFin a) p 0 2 0)
  | .kvmove h sx a => some (enc 0xB5 .b32 h (sByte sx) (BitVec.ofFin a) noB (sWinC sx) 0 0)
  | .belayAdd h pd a n => some (enc 0xB6 .b32 h (pByte pd) (BitVec.ofFin a) n 0 0 0)
  | .belayDrop h pd a n => some (enc 0xB6 .b32 h (pByte pd) (BitVec.ofFin a) n 0 1 0)
  | .retireRcp h pd a n => some (enc 0xB7 .b32 h (pByte pd) (BitVec.ofFin a) n 0 0 0)
  | .retireBly h pd a n => some (enc 0xB7 .b32 h (pByte pd) (BitVec.ofFin a) n 0 1 0)
  | .rcpqState h d a => some (enc 0xB8 .b32 h (vByte d) (vByte a) noB 0 0 0)
  | .rcpqStep h d a => some (enc 0xB8 .b32 h (vByte d) (vByte a) noB 0 1 0)
  | .sched h pd a n => some (enc 0xB9 .b32 h (pByte pd) (BitVec.ofFin a) n 0 0 0)
  | .sacc h op a b => some (enc 0xC0 .f32 h 0 (vByte a) b 0 op.code 0)
  | .topk h sa b => some (enc 0xC1 .f32 h 0 (sByte sa) b (sWinC sa) 0 0)
  | .cntrd h sd id => some (enc 0xC2 .b32 h (sByte sd) id noB (sWinC sd) 0 0)
  | .cntclr h id => some (enc 0xC3 .b32 h 0 id noB 0 0 0)
  | .bra h off => some (enc 0xD0 .b32 h (off.extractLsb' 24 8) (off.extractLsb' 16 8) (.v (off.extractLsb' 8 8).toFin) (off.extractLsb' 0 8) 0 0)
  | .brx h n => some (enc 0xD1 .b32 h 0 0 (.s n) 0 0 0)
  | .call h d off => some (enc 0xD2 .b32 h (vByte d) (off.extractLsb' 16 8) (.v (off.extractLsb' 8 8).toFin) (off.extractLsb' 0 8) 0 0)
  | .ret h a => some (enc 0xD3 .b32 h 0 (vByte a) noB 0 0 0)
  | .exit h => some (enc 0xD4 .b32 h 0 0 noB 0 0 0)
  | .empush h sd pn neg => some (enc 0xD5 .b32 h (sByte sd) (pnByte neg pn) noB (sWinC sd) 0 0)
  | .emflip h sd => some (enc 0xD6 .b32 h (sByte sd) 0 noB (sWinC sd) 0 0)
  | .empop h sd => some (enc 0xD7 .b32 h (sByte sd) 0 noB (sWinC sd) 0 0)
  | .brez h off => some (enc 0xD8 .b32 h (off.extractLsb' 24 8) (off.extractLsb' 16 8) (.v (off.extractLsb' 8 8).toFin) (off.extractLsb' 0 8) 0 0)
  | .trap h code => some (enc 0xE0 .b32 h 0 0 code 0 0 0)
  | .tret h => some (enc 0xE1 .b32 h 0 0 noB 0 0 0)
  | .tretSkip h => some (enc 0xE1 .b32 h 0 0 noB 0 1 0)
  | .tretEmu h a => some (enc 0xE1 .b32 h 0 (vByte a) noB 0 2 0)
  | .bkpt h code => some (enc 0xE2 .b32 h 0 0 code 0 0 0)
  | .csrr h d n => some (enc 0xE3 .b32 h (vByte d) (n.extractLsb' 0 8) noB ((0 : BitVec 4) ++ n.extractLsb' 8 4) 0 0)
  | .csrw h n b => some (enc 0xE4 .b32 h 0 (n.extractLsb' 0 8) b ((0 : BitVec 4) ++ n.extractLsb' 8 4) 0 0)
  | _ => none

/-! ### Field readers -/

/-- The guard and the yield hint. -/
def Fields.hd (x : Fields) : Hd :=
  { neg := x.g.getLsbD 3, p := (x.g.extractLsb' 0 3).toFin, y := x.y = 1 }

/-- B by BK and L (R50, R52). BK = 11 reads as an immediate, which no encoding gives back. -/
def Fields.bsrc (x : Fields) : BSrc :=
  if x.bk = 0 then .v x.b.toFin
  else if x.bk = 1 then .s (x.sw ++ x.b).toFin
  else if x.l = 1 then .imm32 x.imm else .imm8 x.b

/-- B where BK must be 01. -/
def Fields.bs (x : Fields) : SR := (x.sw ++ x.b).toFin
/-- D as a predicate. -/
def Fields.pd (x : Fields) : PR := (x.d.extractLsb' 0 3).toFin
/-- A as a predicate. -/
def Fields.pa (x : Fields) : PR := (x.a.extractLsb' 0 3).toFin
/-- D with C[1:0] as a uniform register (R152). -/
def Fields.sd (x : Fields) : SR := (x.c.extractLsb' 0 2 ++ x.d).toFin
/-- A with C[3:2] as a uniform register (R154). -/
def Fields.sa (x : Fields) : SR := (x.c.extractLsb' 2 2 ++ x.a).toFin
/-- A with C[1:0] as a uniform register (R430). -/
def Fields.sa1 (x : Fields) : SR := (x.c.extractLsb' 0 2 ++ x.a).toFin
/-- The combining field of C (R144). -/
def Fields.comb (x : Fields) : Comb :=
  { op := CombOp.ofCode (x.c.extractLsb' 3 2), neg := x.c.getLsbD 5, p := (x.c.extractLsb' 0 3).toFin }
/-- The MOD bits. -/
def Fields.mods (x : Fields) : Mods :=
  { na := x.md.getLsbD 3, nb := x.md.getLsbD 2, abs := x.md.getLsbD 1, sat := x.md.getLsbD 0 }
/-- The base of a memory operand (R275). -/
def Fields.base (x : Fields) : MBase := if x.sub.getLsbD 3 then .s x.a.toFin else .v x.a.toFin
/-- The part number h in C[5:3] (R173, R176). -/
def Fields.part (x : Fields) : Fin 8 := (x.c.extractLsb' 3 3).toFin

/-- A number below n. -/
def finBelow (n k : Nat) : Option (Fin n) := if h : k < n then some ⟨k, h⟩ else none

/-- The instruction whose operation code, format and sub-operation the fields name, with no check of the rest. RGNBEG and RGNEND with
Y = 1 are accepted: DESIGN CHOICE (log 150), unsafe, since R320 wants every other field zero and R55 gives Y no architectural
effect. -/
def readFields (x : Fields) (f : Fmt) : Option Instr :=
  let h := x.hd
  let d : VR := x.d.toFin
  let a : VR := x.a.toFin
  let c : VR := x.c.toFin
  let b := x.bsrc
  let m := x.mods
  match x.op.toNat with
  | 0x00 => some (.nop h)
  | 0x01 => some (.iadd h f d a b m.na m.nb m.sat)
  | 0x02 => some (.isub h f d a b m.sat)
  | 0x03 => some (.imul h f d a b m.sat)
  | 0x04 => some (.imulh h f d a b)
  | 0x05 => some (.imad h f d a b c m.sat)
  | 0x06 => some (.imin h f d a b)
  | 0x07 => some (.imax h f d a b)
  | 0x08 => some (.band h d a b)
  | 0x09 => some (.bor h d a b)
  | 0x0A => some (.bxor h d a b)
  | 0x0B => some (.blut h d a b c (x.sub ++ x.md))
  | 0x0C => some (.shl h d a b)
  | 0x0D => some (.shr h d a b)
  | 0x0E => some (.sar h d a b)
  | 0x0F => some (.shd h (x.sub.getLsbD 0) (x.sub.getLsbD 1) d a b c)
  | 0x10 => some (.popc h d a)
  | 0x11 => some (.clz h d a)
  | 0x12 => some (.brev h d a)
  | 0x13 => some (.bfe h f d a b)
  | 0x14 => some (.bfi h d a b c)
  | 0x15 => (Cmp.fromCode x.sub.toNat).map fun o0 => .isetp h f o0 x.pd a b x.comb
  | 0x16 => some (.iadd64 h d a b m.nb)
  | 0x17 => some (.lea h (x.sub.getLsbD 3) d a b (x.sub.extractLsb' 0 3).toFin)
  | 0x18 => some (.idp4 h f (x.sub.getLsbD 0) m.sat d a b c)
  | 0x20 => some (.mov h f d b)
  | 0x21 => some (.sel h f d a b (x.c.extractLsb' 0 3).toFin (x.c.getLsbD 3))
  | 0x22 => (ShflMode.fromCode x.sub.toNat).bind fun o0 => (finBelow 6 x.c.toNat).map fun o1 => .shfl h o0 d a b o1
  | 0x23 => (VoteMode.fromCode x.sub.toNat).map fun o0 => .vote h o0 x.pd x.pa (x.a.getLsbD 3)
  | 0x24 => some (.ballot h d x.pa (x.a.getLsbD 3))
  | 0x25 => (Spec.fromCode x.a.toNat).map fun o0 => .rdspec h d o0
  | 0x26 => some (.emrd h (x.sub.getLsbD 0) x.sd)
  | 0x27 => some (.emwr h b)
  | 0x28 => match x.sub.toNat with
    | 0 => some (.prmov h (.pack d))
    | 1 => some (.prmov h (.unpack a b))
    | _ => some (.prmov h (.copy x.pd x.pa (x.a.getLsbD 3)))
  | 0x29 => (UOp.fromCode x.sub.toNat).map fun o0 => .ualu h f o0 m.sat x.sd x.sa b
  | 0x2A => some (.umov h x.sd (if x.sub = 0 then none else some a) b)
  | 0x30 => (RMode.fromCode x.sub.toNat).map fun o0 => .fadd h f o0 m d a b
  | 0x31 => (RMode.fromCode x.sub.toNat).map fun o0 => .fmul h f o0 m d a b
  | 0x32 => (RMode.fromCode x.sub.toNat).map fun o0 => .ffma h f o0 m d a b c
  | 0x33 => some (.fmin h f m d a b)
  | 0x34 => some (.fmax h f m d a b)
  | 0x35 => (Cmp.fromCode x.sub.toNat).map fun o0 => .fsetp h f o0 m x.pd a b x.comb (x.c.getLsbD 6)
  | 0x36 => (RMode.fromCode x.sub.toNat).map fun o0 => .frcp h f o0 m d a
  | 0x37 => (RMode.fromCode x.sub.toNat).map fun o0 => .fsqrt h f o0 m d a
  | 0x38 => (RMode.fromCode x.sub.toNat).map fun o0 => .frsq h f o0 m d a
  | 0x39 => (RMode.fromCode x.sub.toNat).map fun o0 => .fexp2 h f o0 m d a
  | 0x3A => (RMode.fromCode x.sub.toNat).map fun o0 => .flog2 h f o0 m d a
  | 0x3B => (RMode.fromCode x.sub.toNat).map fun o0 => .fsin h f o0 m d a
  | 0x3C => (RMode.fromCode x.sub.toNat).map fun o0 => .fcos h f o0 m d a
  | 0x3D => (RMode.fromCode x.sub.toNat).map fun o0 => .ftanh h f o0 m d a
  | 0x3E => (RMode.fromCode x.sub.toNat).map fun o0 => .fdiv h f o0 m d a b
  | 0x3F => some (.fclass h f d a)
  | 0x40 => (RMode.fromCode x.sub.toNat).map fun o0 => .fdot2 h f o0 m d a b c
  | 0x41 => (Fmt.ofCode x.sub).bind fun src => (RMode.fromCode (x.c.toNat % 8)).map fun mode => .cvt h f src mode m d a x.part
  | 0x42 => (RMode.fromCode (x.c.toNat % 8)).map fun o0 => .qnt h f o0 m.sat d a b x.part
  | 0x43 => (RMode.fromCode (x.c.toNat % 8)).map fun o0 => .dqnt h f o0 d a b x.part
  | 0x44 => some (.angrot h (if x.sub = 0 then .cos else if x.sub = 1 then .sin else .rot) d a b c)
  | 0x45 => some (.nanpl h f d a (x.sub.getLsbD 0))
  | 0x50 => (finBelow 9 x.sub.toNat).map fun o0 => .sigq h f o0 x.pd a b x.comb
  | 0x51 => some (.sigget h f d a (x.sub.extractLsb' 0 3).toFin)
  | 0x52 => some (.sigset h f d b (x.sub.extractLsb' 0 3).toFin)
  | 0x53 => some (.sigmin h f x.sd a)
  | 0x60 => (Width.fromCode (x.sub.toNat % 8)).map fun o0 => .ld h o0 (x.md.getLsbD 3) (x.md.getLsbD 2) d x.base b x.c
  | 0x61 => (Width.fromCode (x.sub.toNat % 8)).map fun o0 => .st h o0 d x.base b x.c
  | 0x62 => (Width.fromCode (x.sub.toNat % 8)).map fun o0 => .lds h o0 (x.md.getLsbD 3) d x.base b x.c
  | 0x63 => (Width.fromCode (x.sub.toNat % 8)).map fun o0 => .sts h o0 d x.base b x.c
  | 0x64 => (Width.fromCode (x.sub.toNat % 8)).map fun o0 => .ldt h o0 (x.md.getLsbD 2) d x.base b x.c
  | 0x65 => (Width.fromCode (x.sub.toNat % 8)).map fun o0 => .stt h o0 d x.base b x.c
  | 0x66 => some (.atom h (AOp.fromCode (x.sub.toNat % 8)) f (Order.fromCode (x.md.toNat / 4)) (Scope.fromCode (x.md.toNat % 4)) d x.base b c)
  | 0x67 => some (.cas h (x.sub.getLsbD 0) (Order.fromCode (x.md.toNat / 4)) (Scope.fromCode (x.md.toNat % 4)) d x.base b c)
  | 0x68 => some (.atoms h (AOp.fromCode (x.sub.toNat % 8)) f (Order.fromCode (x.md.toNat / 4)) d x.base b c)
  | 0x69 => some (.cass h (x.sub.getLsbD 0) (Order.fromCode (x.md.toNat / 4)) d x.base b c)
  | 0x6A => some (.red h (AOp.fromCode (x.sub.toNat % 8)) f (Order.fromCode (x.md.toNat / 4)) (Scope.fromCode (x.md.toNat % 4)) x.base b c)
  | 0x6B => some (.pref h (x.sub.getLsbD 0) x.base b)
  | 0x6C => some (.prefr h a b)
  | 0x6D => (CmoOp.fromCode x.sub.toNat).bind fun o0 => (CmoLevel.fromCode x.md.toNat).map fun o1 => .cmo h o0 o1 a b
  | 0x6E => (Width.fromCode (x.sub.toNat % 8)).map fun o0 => .ldh h o0 d a b x.c
  | 0x80 => some (.mark h)
  | 0x81 => some (.fence h (Scope.fromCode (x.md.toNat % 4)))
  | 0x82 => if x.sub = 0 then some (.barSync h (x.a.extractLsb' 0 4).toFin b) else some (.barArrive h (x.a.extractLsb' 0 4).toFin b)
  | 0x83 => if x.sub = 0 then some (.clarm h x.pd (x.a.extractLsb' 0 5).toFin b) else some (.clarmFree h x.pd (x.a.extractLsb' 0 5).toFin)
  | 0x84 => some (.clarv h (x.md.getLsbD 0) (x.a.extractLsb' 0 5).toFin (x.c.extractLsb' 0 4).toFin b)
  | 0x85 => some (.clwait h (x.md.getLsbD 0) x.pd (x.a.extractLsb' 0 5).toFin b)
  | 0x86 => (Path.fromCode x.sub.toNat).map fun o0 => .waitp h o0 b
  | 0x87 => some (.give h (x.a.extractLsb' 0 5).toFin)
  | 0x88 => some (.take h (x.a.extractLsb' 0 5).toFin)
  | 0x89 => some (.tqry h (x.sub.getLsbD 0) d b)
  | 0x8A => some (.rgnbeg h.y)
  | 0x8B => some (.rgnend h.y)
  | 0x8C => some (.tick h)
  | 0xA0 => some (.copy h (x.sub.extractLsb' 0 3).toFin (x.a.extractLsb' 0 7).toFin)
  | 0xA1 => some (.copyg h (x.sub.extractLsb' 0 3).toFin (x.a.extractLsb' 0 7).toFin)
  | 0xA2 => some (.launch h x.pd a)
  | 0xA3 => some (.join h x.pd a b)
  | 0xA4 => (CollKind.fromCode x.sub.toNat).map fun o0 => .coll h f o0 x.sd a x.bs
  | 0xA5 => if x.sub = 0 then some (.tkstat h x.sd a b) else some (.tkstatWait h x.sd a b)
  | 0xA6 => some (.tkreform h x.pd a x.bs)
  | 0xB0 => some (.htrans h d a b)
  | 0xB1 => some (.kvapp h x.sd a)
  | 0xB2 => some (.kvfork h x.sd a x.bs)
  | 0xB3 => some (.kvrel h a)
  | 0xB4 => match x.sub.toNat with
    | 0 => some (.kvsetMap h x.sd a b)
    | 1 => some (.kvsetNew h x.sd a b)
    | _ => some (.kvsetAbsent h a b)
  | 0xB5 => some (.kvmove h x.sd a)
  | 0xB6 => if x.sub = 0 then some (.belayAdd h x.pd a b) else some (.belayDrop h x.pd a b)
  | 0xB7 => if x.sub = 0 then some (.retireRcp h x.pd a b) else some (.retireBly h x.pd a b)
  | 0xB8 => if x.sub = 0 then some (.rcpqState h d a) else some (.rcpqStep h d a)
  | 0xB9 => some (.sched h x.pd a b)
  | 0xC0 => (SaccOp.fromCode x.sub.toNat).map fun o0 => .sacc h o0 a b
  | 0xC1 => some (.topk h x.sa1 b)
  | 0xC2 => some (.cntrd h x.sd x.a)
  | 0xC3 => some (.cntclr h x.a)
  | 0xD0 => some (.bra h (x.d ++ x.a ++ x.b ++ x.c))
  | 0xD1 => some (.brx h x.bs)
  | 0xD2 => some (.call h d (x.a ++ x.b ++ x.c))
  | 0xD3 => some (.ret h a)
  | 0xD4 => some (.exit h)
  | 0xD5 => some (.empush h x.sd x.pa (x.a.getLsbD 3))
  | 0xD6 => some (.emflip h x.sd)
  | 0xD7 => some (.empop h x.sd)
  | 0xD8 => some (.brez h (x.d ++ x.a ++ x.b ++ x.c))
  | 0xE0 => some (.trap h b)
  | 0xE1 => match x.sub.toNat with
    | 0 => some (.tret h)
    | 1 => some (.tretSkip h)
    | _ => some (.tretEmu h a)
  | 0xE2 => some (.bkpt h b)
  | 0xE3 => some (.csrr h d (x.c.extractLsb' 0 4 ++ x.a))
  | 0xE4 => some (.csrw h (x.c.extractLsb' 0 4 ++ x.a) b)
  | _ => none

/-- Is OP an instruction of the base (R78)? -/
def opIsInstr (op : Nat) : Bool :=
  op ≤ 0x18 || (0x20 ≤ op && op ≤ 0x2A) || (0x30 ≤ op && op ≤ 0x45) || (0x50 ≤ op && op ≤ 0x53) ||
  (0x60 ≤ op && op ≤ 0x6E) || (0x80 ≤ op && op ≤ 0x8C) || (0xA0 ≤ op && op ≤ 0xA6) || (0xB0 ≤ op && op ≤ 0xB9) ||
  (0xC0 ≤ op && op ≤ 0xC3) || (0xD0 ≤ op && op ≤ 0xD8) || (0xE0 ≤ op && op ≤ 0xE4)

/-- The instruction of a base word's fields (R87 steps 1 and 3). -/
def decodeFields (x : Fields) : Except Reject Instr :=
  if opIsInstr x.op.toNat then
    match (Fmt.ofCode x.fmt).bind (readFields x) with
    | some i => if i.wf && (encodeFields i == some x) then .ok i else .error .field
    | none => .error .field
  else .error .noInstruction

/-! ### Words -/

/-- The first word from its fields (R49). -/
def Fields.word (x : Fields) : DWord :=
  x.op ++ x.fmt ++ x.g ++ x.d ++ x.a ++ x.b ++ x.c ++ x.bk ++ x.sw ++ x.sub ++ x.md ++ x.l ++ x.y ++ x.z

/-- The second word from its halves (R52). -/
def Fields.word2 (x : Fields) : DWord := x.hi ++ x.imm

/-- Does the first word announce a second (R49, L)? -/
def longForm (w0 : DWord) : Bool := w0.getLsbD 3

/-- The fields of two words; the second counts only in the long form. -/
def fieldsOf (w0 w1 : DWord) : Fields :=
  { op := w0.extractLsb' 56 8, fmt := w0.extractLsb' 52 4, g := w0.extractLsb' 48 4, d := w0.extractLsb' 40 8,
    a := w0.extractLsb' 32 8, b := w0.extractLsb' 24 8, c := w0.extractLsb' 16 8, bk := w0.extractLsb' 14 2,
    sw := w0.extractLsb' 12 2, sub := w0.extractLsb' 8 4, md := w0.extractLsb' 4 4, l := w0.extractLsb' 3 1,
    y := w0.extractLsb' 2 1, z := w0.extractLsb' 0 2,
    imm := if longForm w0 then w1.extractLsb' 0 32 else 0, hi := if longForm w0 then w1.extractLsb' 32 32 else 0 }

/-- Bytes of the instruction whose first word is w0 (R49). -/
def wordBytes (w0 : DWord) : Nat := if longForm w0 then 16 else 8

/-- The instruction in two words, in the order of R87. -/
def decodeWords (w0 w1 : DWord) : Except Reject Instr :=
  if w0.extractLsb' 60 4 = 15 then
    let i := Instr.extensionOpcode w0 (if longForm w0 then w1 else 0)
    if i.wf then .ok i else .error .extensionField
  else decodeFields (fieldsOf w0 w1)

/-- The words of a strand instruction; the second is zero in the short form. None for bundles and events, which
have no strand word. -/
def encode (i : Instr) : Option (DWord × DWord) :=
  match i with
  | .extensionOpcode w0 w1 => some (w0, w1)
  | i => (encodeFields i).map fun x => (x.word, x.word2)

/-! ### Bundles -/

/-- The bundle whose 512 bits are w (R58, R60). -/
def decodeBundle (w : BitVec 512) : Bundle :=
  { ver := w.extractLsb' 508 4, pres := w.extractLsb' 499 9, port0 := w.extractLsb' 495 4,
    port1 := w.extractLsb' 491 4, port2 := w.extractLsb' 487 4, port3 := w.extractLsb' 483 4,
    hz := w.extractLsb' 464 19,
    s := { op := w.extractLsb' 458 6, d := w.extractLsb' 452 6, a := w.extractLsb' 446 6, b := w.extractLsb' 440 6,
           imm := w.extractLsb' 408 32, sub := w.extractLsb' 404 4, i := w.extractLsb' 403 1, z := w.extractLsb' 400 3 }
    v0 := vslot (w.extractLsb' 336 64)
    v1 := vslot (w.extractLsb' 272 64)
    m := { op := w.extractLsb' 268 4, fmtA := w.extractLsb' 264 4, fmtB := w.extractLsb' 260 4,
           bsA := w.extractLsb' 258 2, bsB := w.extractLsb' 256 2, d := w.extractLsb' 247 9, a := w.extractLsb' 238 9,
           b := w.extractLsb' 229 9, c := w.extractLsb' 220 9, z := w.extractLsb' 215 5, x := w.extractLsb' 212 3,
           acc := w.extractLsb' 211 1, sub := w.extractLsb' 208 3 }
    l := { op := w.extractLsb' 204 4, lb := w.extractLsb' 201 3, dtile := w.extractLsb' 192 9,
           base := w.extractLsb' 186 6, off := w.extractLsb' 168 18, layout := w.extractLsb' 164 4,
           sub := w.extractLsb' 160 4 }
    w := { op := w.extractLsb' 156 4, stile := w.extractLsb' 147 9, base := w.extractLsb' 141 6,
           off := w.extractLsb' 123 18, layout := w.extractLsb' 119 4, rd := w.extractLsb' 113 6,
           z := w.extractLsb' 112 1 }
    k := { op := w.extractLsb' 108 4, lb := w.extractLsb' 105 3, dst := w.extractLsb' 100 5,
           base := w.extractLsb' 94 6, off := w.extractLsb' 80 14 }
    c := { op := w.extractLsb' 76 4, path := w.extractLsb' 73 3, dst := w.extractLsb' 67 6, src := w.extractLsb' 61 6,
           len := w.extractLsb' 55 6, shape := w.extractLsb' 49 6, flags := w.extractLsb' 32 17 }
    y := { op := w.extractLsb' 27 5, tile := w.extractLsb' 18 9, id := w.extractLsb' 8 10, a := w.extractLsb' 2 6,
           scope := w.extractLsb' 0 2 } }
where
  /-- A V slot from its 64 bits (R60). -/
  vslot (w : BitVec 64) : VSlot :=
    { op := w.extractLsb' 58 6, width := w.extractLsb' 56 2, fmt := w.extractLsb' 52 4, lb := w.extractLsb' 49 3,
      dtile := w.extractLsb' 40 9, dreg := w.extractLsb' 37 3, atile := w.extractLsb' 28 9, areg := w.extractLsb' 25 3,
      btile := w.extractLsb' 16 9, breg := w.extractLsb' 13 3, sa := w.extractLsb' 7 6, sub := w.extractLsb' 3 4,
      lg := w.extractLsb' 0 3 }

/-- The 64 bits of an S slot. -/
def SSlot.bits (s : SSlot) : BitVec 64 := s.op ++ s.d ++ s.a ++ s.b ++ s.imm ++ s.sub ++ s.i ++ s.z
/-- The 64 bits of a V slot. -/
def VSlot.bits (v : VSlot) : BitVec 64 :=
  v.op ++ v.width ++ v.fmt ++ v.lb ++ v.dtile ++ v.dreg ++ v.atile ++ v.areg ++ v.btile ++ v.breg ++ v.sa ++ v.sub ++ v.lg
/-- The 64 bits of an M slot. -/
def MSlot.bits (m : MSlot) : BitVec 64 :=
  m.op ++ m.fmtA ++ m.fmtB ++ m.bsA ++ m.bsB ++ m.d ++ m.a ++ m.b ++ m.c ++ m.z ++ m.x ++ m.acc ++ m.sub
/-- The 48 bits of an L slot. -/
def LSlot.bits (l : LSlot) : BitVec 48 := l.op ++ l.lb ++ l.dtile ++ l.base ++ l.off ++ l.layout ++ l.sub
/-- The 48 bits of a W slot. -/
def WSlot.bits (w : WSlot) : BitVec 48 := w.op ++ w.stile ++ w.base ++ w.off ++ w.layout ++ w.rd ++ w.z
/-- The 32 bits of a K slot. -/
def KSlot.bits (k : KSlot) : BitVec 32 := k.op ++ k.lb ++ k.dst ++ k.base ++ k.off
/-- The 48 bits of a C slot. -/
def CSlot.bits (c : CSlot) : BitVec 48 := c.op ++ c.path ++ c.dst ++ c.src ++ c.len ++ c.shape ++ c.flags
/-- The 32 bits of a Y slot. -/
def YSlot.bits (y : YSlot) : BitVec 32 := y.op ++ y.tile ++ y.id ++ y.a ++ y.scope

/-- The 512 bits of a bundle (R58, R60). -/
def encodeBundle (b : Bundle) : BitVec 512 :=
  b.ver ++ b.pres ++ b.port0 ++ b.port1 ++ b.port2 ++ b.port3 ++ b.hz ++ b.s.bits ++ b.v0.bits ++ b.v1.bits ++
  b.m.bits ++ b.l.bits ++ b.w.bits ++ b.k.bits ++ b.c.bits ++ b.y.bits

/-! ### Bytes (R5, R49, R58) -/

/-- The number whose little-endian bytes are given. -/
def leNat : List Byte → Nat
  | [] => 0
  | b :: bs => b.toNat + 256 * leNat bs

/-- The n little-endian bytes of a number. -/
def leBytes : Nat → Nat → List Byte
  | 0, _ => []
  | n + 1, v => BitVec.ofNat 8 v :: leBytes n (v / 256)

/-- The strand instruction at the head of a byte list, with what follows it. -/
def decodeBytes (bs : List Byte) : Except Reject (Instr × List Byte) :=
  if bs.length < 8 then .error .short
  else
    let w0 := BitVec.ofNat 64 (leNat (bs.take 8))
    if longForm w0 && bs.length < 16 then .error .short
    else
      let w1 := BitVec.ofNat 64 (leNat ((bs.drop 8).take 8))
      match decodeWords w0 w1 with
      | .ok i => .ok (i, bs.drop (wordBytes w0))
      | .error e => .error e

/-- The bytes of a strand instruction or a bundle. -/
def encodeBytes (i : Instr) : Option (List Byte) :=
  match i with
  | .bundleIssue b => some (leBytes 64 (encodeBundle b).toNat)
  | i => (encode i).map fun (w0, w1) =>
      leBytes 8 w0.toNat ++ (if longForm w0 then leBytes 8 w1.toNat else [])

/-- The instruction this decoder reads from bits w, of which the opcode table numbers nbits: 512 bits are a bundle,
fewer than 65 a strand word (its second word zero), fewer than 129 a long form. A row with no bits (a device event)
has no encoding. -/
def decodeTableWord (nbits w : Nat) : Option Instr :=
  if nbits = 0 then none
  else if nbits ≤ 128 then
    match decodeBytes (leBytes 16 (w % 2 ^ nbits)) with
    | .ok (i, _) => some i
    | .error _ => none
  else if nbits ≤ 512 then some (.bundleIssue (decodeBundle (BitVec.ofNat 512 w)))
  else none

end Sys2Proof
end

