-- ==== Sys2Proof/Machine/State.lean ====
section
/-! DEFINITION. The state of the device as plain data, the reasons a step can stop, and the state after reset. -/

namespace Sys2Proof.Machine

/-- Bytes by address: addresses strictly rising, no listed byte zero, every unlisted byte zero (log 4). -/
abbrev Memory := List Host.Cell

/-- One word write into a tile: data and tag (R16, R120). -/
structure VWrite where
  tile : Nat
  reg : Nat
  lane : Nat
  word : Word
  tag : Byte
  deriving DecidableEq, Repr

/-- What the SIGNIFICANCE check of a landed result needs (R163). `elems` is a mask of elements. -/
structure SigCheck where
  pc : DWord
  iw0 : DWord
  iw1 : DWord
  fmt : Fmt
  regs : List (Nat × Nat)
  elems : Nat
  lanes : Word
  deriving DecidableEq, Repr

/-- A strand result in flight (R131, R137): it lands when the clock reaches `landAt`. `issuedAt` orders the writes that land
in one clock. `p` lists predicates and `em` says that EM too is still to land: only the strand itself reads them, and it waits
for them, so their values are written at issue (log 31). -/
structure Flight where
  seq : Nat
  issuedAt : Nat
  landAt : Nat
  v : List VWrite := []
  s : List (Nat × Word) := []
  p : List PR := []
  em : Bool := false
  qsat : Nat := 0
  qund : Nat := 0
  chk : Option SigCheck := none
  deriving DecidableEq, Repr

/-- The place where an access is performed (R302). -/
inductive Place
  | home (die slice : Nat)
  | derived (die slice : Nat)
  | shared (gid : Nat)
  | host
  deriving DecidableEq, Repr

/-- One lane's or row's access. `addr` is the virtual address or shared offset, `pa` the physical address (the
virtual address of a derived byte, the offset of a shared one). -/
structure Part where
  lane : Nat := 0
  isTag : Bool := false
  word : Nat := 0
  addr : Nat
  pa : Nat
  place : Place
  len : Nat
  data : List Byte := []
  cmp : List Byte := []
  got : List Byte := []
  done : Bool := false
  err : Nat := 0
  deriving DecidableEq, Repr

/-- What an entry of an agent's memory queues does when its parts are performed. -/
inductive AccKind
  | load (w : Width) (sx cg tagged : Bool) (d : Nat)
  | store
  | atom (op : AOp) (f : Fmt) (ord : Order) (sc : Scope) (d : Option Nat)
  | cas (ord : Order) (sc : Scope) (d : Nat) (wide : Bool)
  | lookup (v : List VWrite)
  | rcpq (step : Bool) (d : Nat)
  | tile (t : Nat) (tagged : Bool) (exposed : Nat)
  | kreg (z : Bool) (n : Nat) (exposed : Nat)
  | sld (entry : Nat) (slot : Nat)
  | tstd (va : Nat) (rec : List Byte) (bytes : List Byte)
  | prefr (base len : Nat) (tiles : List Nat)
  | cmo (op : CmoOp) (level : CmoLevel) (base len : Nat)
  | arrive (pos cleat : Nat)
  | mark
  | fence (sc : Scope)
  | handoff (giver : Agent) (upto : Nat)
  deriving DecidableEq, Repr

/-- An entry of an agent's program-ordered list of accesses (R304): which queues hold it, its parts, whether it has
been sent, its path counter, and what a DATA_ERROR record needs (R278): `inRegion` and `inHandler` say where it was issued;
`tileSince` is the clock from which it waits on a derived tile (R266, R450). -/
structure Entry where
  seq : Nat
  kind : AccKind
  isLd : Bool
  isSt : Bool
  parts : List Part := []
  sent : Bool := false
  path : Option Nat := none
  pc : DWord := 0
  iw0 : DWord := 0
  iw1 : DWord := 0
  bpc : DWord := 0
  inRegion : Bool := false
  inHandler : Bool := false
  tileSince : Option Nat := none
  frames : List Nat := []
  deriving DecidableEq, Repr

/-- What a walk found (R251 step 4, R374, R375): `malformed` with a reason of R273, or with 16 plus the address of an entry whose
line is poisoned, in whose low bits a finished walk gives the unit that it met (R270, R272). -/
inductive WalkResult
  | leaf (pa : Nat) (large r w x bly : Bool) (ten : Nat)
  | malformed (reason : Nat)
  | absent (level : Nat) (pgr : Bool)
  deriving DecidableEq, Repr

/-- A strand trap before its record is written (R436). `late` marks one that is found after later instructions may have
issued: its RPC is the first instruction not yet issued when it is taken (R163, R278). -/
structure TrapRec where
  cause : Nat
  kind : Nat := 0
  pc : DWord
  rpc : DWord
  lanes : Word := 0
  extra : Word := 0
  addr : DWord := 0
  long : Bool := false
  iw0 : DWord := 0
  iw1 : DWord := 0
  late : Bool := false
  deriving DecidableEq, Repr

/-- A schedule entry (R411). -/
structure SchedEntry where
  base : Nat
  cls : Nat
  size : Nat
  live : Nat
  dead : Nat
  deriving DecidableEq, Repr

/-- What a strand waits for (R45, R346, R441, R446); `record` is the page of a recipe record (R375). -/
inductive WaitKind
  | take (q : Nat)
  | clwait (gang : Bool) (pd : PR) (c : Nat) (parity : Bool)
  | waitp (path v : Nat)
  | join (pd : PR) (addr v : Nat)
  | tkstat (sd tackle : Nat) (ticket : Word)
  | bar (b : Nat)
  | launch (pd : PR) (addr seq : Nat)
  | belay (pd : PR) (seq base len : Nat)
  | sched (pd : PR)
  | tkreform (pd : PR) (tackle : Nat)
  | retire (pd : PR) (seq : Nat) (units : List Nat)
  | tile (va : Nat)
  | page (va : Nat)
  | record (va : Nat)
  | mapWord (handle page : Nat)
  deriving DecidableEq, Repr

/-- A wait with the clock in which it began and the length of its instruction. -/
structure Wait where
  kind : WaitKind
  since : Nat
  len : Nat
  deriving DecidableEq, Repr

/-- A fault that a recompute chain left for an access that waited on it (R406, R450). -/
structure ChainFault where
  va : Nat
  cause : Nat
  extra : Word
  deriving DecidableEq, Repr

/-- The handler state of a strand (R440, R441). `since` is the clock of its entry; `bkpt` says that it stands at a BKPT that the
debug controller has taken as a halt (R444). -/
structure Handler where
  masked : Bool
  cause : Nat
  kind : Nat
  since : Nat := 0
  bkpt : Bool := false
  deriving DecidableEq, Repr

/-- A strand (R119, R321). `p` holds P0 to P6, a bit per lane; `issuedAt` the clock in which it last issued; `trap` the trap
it takes at its next boundary, `later` those that wait until its handler has returned; `barArrived`, for each BAR that has
arrived and not gone on, its barrier, whether that phase has completed, and its PC (R446); `yield` says that it has begun in
this clock a wait that unmasks its handler (R441). -/
structure Strand where
  role : Nat := 0
  slot : Nat := 0
  pc : DWord := 0
  em : Word := 0xFFFFFFFF
  live : Word := 0xFFFFFFFF
  p : Vector Word 7 := Vector.replicate 7 0
  q : Vector (BitVec 16) 32 := Vector.replicate 32 0
  sigth : Word := 0
  gen : Vector Word 32 := Vector.replicate 32 1
  active : Bool := false
  rgnpc : DWord := 0
  rgnem : Word := 0
  handler : Option Handler := none
  wait : Option Wait := none
  readyAt : Nat := 0
  issuedAt : Option Nat := none
  flights : List Flight := []
  acc : List Entry := []
  walked : List (Nat × WalkResult) := []
  trap : Option TrapRec := none
  later : List TrapRec := []
  chainFault : Option ChainFault := none
  barArrived : List (Nat × Bool × DWord) := []
  yield : Bool := false
  pdone : Bool := false
  deriving DecidableEq, Repr

/-- A tile's owner state (R33, R125). -/
inductive Owner
  | free
  | capstan
  | strand (s k : Nat)
  | offeredCapstan (since : Nat) (giver : Nat) (upto : Nat)
  | offeredStrand (s k : Nat) (since : Nat) (upto : Nat)
  deriving DecidableEq, Repr

/-- A matrix operation waiting or running (R220 to R222). `left` is the occupancy still to run, in the snapshot buffer the core
clocks until the engine has completed it (R230); `relAt` the clock at which its read entries are released, `v` its results. -/
structure EngineOp where
  seq : Nat
  bpc : DWord
  started : Bool := false
  left : Nat
  occ : Nat
  relAt : Nat := 0
  rdReleased : Bool := false
  dtiles : List Nat
  rtiles : List Nat
  v : List VWrite
  check : Bool
  weight : Nat
  deriving DecidableEq, Repr

/-- An exposed result in flight (R66, R71), or one held in the snapshot buffer (R448). `issued` and `bound` are virtual
cycles: a native result lands at one from issued + 1 to bound, a fixed or snapshot one at bound. It lands no earlier than
the clock `minAt`, and once its data is there (`ready`). `dead` and `mixed` list masks
of registers and lanes: those that a later result of the other kind has already written, and those that results of both
kinds were in flight to at once (R70). `op` is a matrix operation stopped with its tiles unwritten (R230). -/
structure Exposed where
  seq : Nat
  fixed : Bool
  issued : Nat
  bound : Nat
  minAt : Nat
  ready : Bool
  tile : Option Nat := none
  regs : Nat := 0
  lanes : Word := 0xFFFFFFFF
  v : List VWrite := []
  z : Option (Nat × BitVec 512) := none
  x : Option (Nat × BitVec 128) := none
  qsat : Nat := 0
  qund : Nat := 0
  dead : List (Nat × Word) := []
  mixed : List (Nat × Word) := []
  op : Option EngineOp := none
  deriving DecidableEq, Repr

/-- A slice-store write in flight (R294); `data` once its load has been performed. -/
structure SldWrite where
  seq : Nat
  entry : Nat
  data : Option (List Byte) := none
  deriving DecidableEq, Repr

/-- A bundle that has begun to commit and stands before slot `idx` (R62, R64). -/
structure PartialBundle where
  b : Bundle
  cpc : DWord
  idx : Nat
  issued : Nat
  npc : Option DWord
  seq : Nat
  deriving DecidableEq, Repr

/-- What a committed Y slot makes the core wait for (R67). -/
inductive CWait
  | take (tile : Nat)
  | clwait (gang : Bool) (c : Nat) (parity : Bool)
  | waitp (path v : Nat)
  deriving DecidableEq, Repr

/-- A Capstan trap before or at its record (R437). It is taken from the clock `due` on: after HALT that is the clock after its
cause (R207). -/
structure CTrap where
  cause : Nat
  compl : Bool := false
  sresume : Nat := 0
  smask : Nat := 0
  bpc : DWord
  crpc : DWord
  npc : DWord
  extra : Word := 0
  addr : DWord := 0
  slotw : DWord := 0
  hdr : DWord := 0
  seq : Nat := 0
  due : Nat := 0
  deriving DecidableEq, Repr

/-- A Capstan (R187, R192). `rstk` holds the return stack, oldest first; `slice` the slice store's bytes; `reenter` the
slot at which the next bundle starts after a TRET, the bundle that follows it, and whether TRET skipped a slot (R444);
`haltPc` the CPC of the bundle that halted; `vcAt` the clock in which a bundle last issued, `slotAt` that in which a slot last
committed, `readyAt` the clock from which the next bundle may issue. -/
structure Capstan where
  a : Vector DWord 64 := Vector.replicate 64 0
  z : Vector (BitVec 512) 32 := Vector.replicate 32 0
  x : Vector (BitVec 128) 8 := Vector.replicate 8 0
  l : Vector Word 4 := Vector.replicate 4 0
  rstk : List DWord := []
  cpc : DWord := 0
  halted : Bool := false
  haltPc : DWord := 0
  mth : Nat := 0
  mse : Bool := false
  slice : Memory := []
  gen : Vector Word 32 := Vector.replicate 32 1
  res : List Exposed := []
  sld : List SldWrite := []
  eng : List EngineOp := []
  part : Option PartialBundle := none
  reenter : Option (Nat × DWord × Bool) := none
  wait : Option CWait := none
  waitSince : Nat := 0
  pageWait : Option WaitKind := none
  traps : List CTrap := []
  taken : Option CTrap := none
  delivered : Bool := false
  acc : List Entry := []
  walked : List (Nat × WalkResult) := []
  chainFault : Option ChainFault := none
  poisonedSnap : Bool := false
  vcAt : Option Nat := none
  slotAt : Option Nat := none
  readyAt : Nat := 0
  deriving DecidableEq, Repr

/-- A group barrier (R425). `doneAt` is the clock in which its last phase completed. -/
structure Barrier where
  arr : Nat := 0
  exp : Nat := 0
  phase : Bool := false
  doneAt : Option Nat := none
  deriving DecidableEq, Repr

/-- A counted operation of a path counter (R417). -/
structure PathOp where
  seq : Nat
  done : Bool := false
  deriving DecidableEq, Repr

/-- A record accepted by LAUNCH, waiting for the distributor: its grid, and its number in the launch path counter
(R341, R342). -/
structure Pending where
  grid : Nat
  seq : Nat
  deriving DecidableEq, Repr

/-- Why a group that holds no core does so (R345, R449, R450). -/
inductive Future
  | counter (addr v : Nat)
  | pager (req : Nat)
  | tile (va : Nat)
  | none
  deriving DecidableEq, Repr

/-- Where a group stands. -/
inductive GState
  | resident
  | halted
  | saved
  deriving DecidableEq, Repr

/-- A stop that has been asked for and that strands at boundaries or a masked handler still delay (R441, R447); `halt` is
the debugger's, `rewind` a conversion from inside a region (R323). -/
structure StopReq where
  future : Future
  since : Nat
  halt : Bool := false
  rewind : Bool := false
  deriving DecidableEq, Repr

/-- A copy in a Windlass channel (R350 to R357). `fail` is the CAUSE, PREASON and ADDR of an error found (R354);
`did` lists the bytes performed, in the order of R352. -/
structure Copy where
  seq : Nat
  gid : Nat
  g : Bool
  path : Nat
  dst : Nat
  src : Nat
  len : Nat
  shape : DWord
  flags : Word
  issuer : Agent
  upto : Nat
  started : Bool := false
  sentOut : Bool := false
  fail : Option (Nat × Nat × Nat) := none
  did : List Nat := []
  deriving DecidableEq, Repr

/-- An arrival at a cleat: its count, the arriving group and that group's gang (R421), whether a collective made it (R315), and
the physical lines that the copy which made it has written (R314). -/
structure Arrival where
  n : Nat
  gid : Nat
  grid : Nat
  gangix : Nat
  coll : Bool := false
  lines : List Nat := []
  deriving DecidableEq, Repr

/-- A cleat (R420). `arrivals` holds what has reached it and is not applied yet, `settledAt` the clock in which arrivals were
last applied, `flippedAt` that in which they last completed a phase (R422); `coll` and `lines` say what the arrivals since the CLARM
were (R314, R315). -/
structure Cleat where
  owner : Option Nat := none
  count : Nat := 0
  expect : Nat := 0
  phase : Bool := false
  armed : Bool := false
  arrivals : List Arrival := []
  settledAt : Option Nat := none
  flippedAt : Option Nat := none
  coll : Bool := false
  lines : List Nat := []
  deriving DecidableEq, Repr

/-- A group (R119, R187, R416). `regs` lists the words of its tiles that differ from zero with tag 0xFF, by
tile × 256 + register × 32 + lane; `sregs` the uniform registers that are not zero; `qsatNow` and `qundNow` what has
landed on QSAT and QUND in this clock (R431); `sigNext` what CSRW has written to SIGCTL in this clock (R249); `acceptedAt`
the clock in which a LAUNCH last entered its record (R341); `copied` the physical lines that its completed copies have
written, each with the copy's path counter (R314); `convTry` the clock in which a conversion was held, and whether it was for a
full pager ring (R449, R454). -/
structure Group where
  gid : Nat
  ctx : Nat
  grid : Nat
  state : GState := .resident
  core : Nat := 0
  groupix : Nat := 0
  gangix : Nat := 0
  gangpos : Nat := 0
  gangsize : Nat := 1
  capBound : Bool := false
  strands : List Strand := []
  sregs : List (Nat × Word) := []
  shared : Memory := []
  shbytes : Nat := 0
  owner : List (Nat × Owner) := []
  regs : List (Nat × Word × Byte) := []
  badWords : List Nat := []
  qsat : Nat := 0
  qund : Nat := 0
  qsatNow : Nat := 0
  qundNow : Nat := 0
  lostarr : Nat := 0
  wstat0 : DWord := 0
  wstat1 : DWord := 0
  paths : Vector (List PathOp) 8 := Vector.replicate 8 []
  barriers : Vector Barrier 16 := Vector.replicate 16 (({} : Barrier))
  score : List (Nat × Word) := []
  vcyc : Nat := 0
  sigctl : Word := 0
  sigNext : Option Word := none
  srseed : Word := 0
  pendingL : List Pending := []
  acceptedAt : Option Nat := none
  cap : Option Capstan := none
  snaps : List Exposed := []
  savedCopies : List (Nat × Copy) := []
  copied : List (Nat × Nat) := []
  savedCleats : List (Nat × Cleat) := []
  future : Future := .none
  ready : Option Nat := none
  placedAt : Nat := 0
  build : Option Nat := none
  badShared : List Nat := []
  badSlice : List Nat := []
  stopReq : Option StopReq := none
  preempted : Bool := false
  age : Nat := 0
  convTry : Option (Nat × Bool) := none
  deriving DecidableEq, Repr

/-- The states of a grid (R331). -/
inductive GridState
  | queued | waitdep | fetch | placing | placed | ending | done | refused
  deriving DecidableEq, Repr

/-- Where a launch record came from (R43 ORIGIN, R336). -/
inductive Origin
  | host (tenant q : Nat)
  | pendingQueue (gid : Nat)
  | spill
  | recompute (build : Nat)
  deriving DecidableEq, Repr

/-- A grid (R328, R331). `words` are the sixteen words of its record. -/
structure Grid where
  id : Nat
  ctx : Nat
  origin : Origin
  taken : Bool := false
  words : List DWord
  state : GridState := .queued
  gridid : Nat := 0
  qseq : Nat := 0
  prio : Nat := 0
  step : DWord := 0
  dep0 : Bool := false
  dep1 : Bool := false
  args : List Byte := []
  image : List Byte := []
  nextGang : Nat := 0
  endedGroups : Nat := 0
  age : Nat := 0
  deriving DecidableEq, Repr

/-- A reservation of ring positions by a gang of a grid (R339). `got` lists the positions that are reserved. -/
structure Reservation where
  grid : Nat
  gangix : Nat
  pair : Nat
  ring : Nat
  start : Nat
  n : Nat
  got : List Nat := []
  deriving DecidableEq, Repr

/-- A derived region (R396). -/
structure Region where
  base : Nat
  ntiles : Nat
  die : Nat
  recbase : Nat
  deriving DecidableEq, Repr

/-- A context (R247 scope Context, R371, R395). `stepAt` is the clock of the oldest TICK that the L2 slices have not taken up
(R414). -/
structure Ctx where
  id : Nat
  ctxid : Word := 0
  tenant : Nat := 0
  tslice : Word := 0
  pregrace : Word := 50
  trapvec : Nat := 0
  tagbase : Nat := 0
  step : DWord := 0
  stepL2 : DWord := 0
  stepAt : Nat := 0
  rcpdepth : Nat := 4
  rcpcores : Word := 0
  tktimeout : Word := 0
  gangage : Word := 0
  joinspin : Word := 0
  ptroot : Nat := 0
  belaycap : Nat := 65536
  belay : List (Nat × Nat) := []
  regions : List Region := []
  rkbase : Nat := 0
  rkcount : Nat := 0
  sched : List SchedEntry := []
  schedL2 : List SchedEntry := []
  launchSeq : Nat := 0
  sliceStart : Option Nat := none
  expired : Bool := false
  breakpoints : Bool := false
  ended : Option Nat := none
  deriving DecidableEq, Repr

/-- A line of an L1 (R258). -/
structure L1Line where
  set : Nat
  way : Nat
  pa : Nat
  bytes : List Byte
  deriving DecidableEq, Repr

/-- A TLB entry (R376): the virtual base of the page and what its leaf says. -/
structure TlbEntry where
  ctx : Nat
  base : Nat
  leaf : WalkResult
  deriving DecidableEq, Repr

/-- A walk in flight and the agents that wait for it (R377). -/
structure Walk where
  ctx : Nat
  page : Nat
  waiters : List Agent
  deriving DecidableEq, Repr

/-- A core (R14, R349, R416, R432, R433). `perf` holds PERFCNT0 to 15; `weights` the last 64 clocks, newest first;
`weight` what the present clock has drawn; `busy` the clock until which a port (partition × 4 + class) is occupied
(R162); `frozen` says that the present clock is a power-governor freeze; `drain` holds what the engine has left of the operations
that stops have moved to snapshot buffers, oldest first, each as its occupancy and weight (R230, R231). -/
structure Core where
  l1 : List L1Line := []
  l1ptr : List (Nat × Nat) := []
  tlb : List TlbEntry := []
  walks : List Walk := []
  cleats : List (Nat × Cleat) := []
  ch0 : List Copy := []
  ch1 : List Copy := []
  pwfrz : Word := 0
  pwlim : Word := 0
  perfsel : BitVec 128 := 0
  perf : Vector DWord 16 := Vector.replicate 16 0
  weights : List Nat := []
  weight : Nat := 0
  busy : List (Nat × Nat) := []
  frozen : Bool := false
  drain : List (Nat × Nat) := []
  deriving DecidableEq, Repr

/-- A line of the L2 (R250, R254, R257). `tile` names the derived tile it belongs to; `old` holds HBM4E's bytes
while the line is dirty. -/
structure L2Line where
  die : Nat
  slice : Nat
  set : Nat
  way : Nat
  pa : Nat
  ctx : Option Nat
  va : Nat
  tile : Option Nat
  old : Option (List Byte)
  deriving DecidableEq, Repr

/-- The contents of a derived tile that is PRESENT, or being written while BUILDING: 4,096 data bytes then 1,024 tag
bytes (R265). -/
structure DTile where
  ctx : Nat
  va : Nat
  bytes : Memory
  deriving DecidableEq, Repr

/-- A build of a derived tile (R403, R404): `key` names it, `by_` the recompute group whose access started it, `done`
says that its tile has become PRESENT while its group still runs. -/
structure Build where
  key : Nat
  ctx : Nat
  va : Nat
  chain : Nat
  depth : Nat
  by_ : Option Nat
  admitted : Bool := false
  done : Bool := false
  gid : Option Nat := none
  pins : List Nat := []
  links : List Nat := []
  deriving DecidableEq, Repr

/-- A queue descriptor (R325). -/
structure QDesc where
  base : Nat := 0
  log2 : Nat := 0
  prio : Nat := 0
  en : Bool := false
  stopped : Bool := false
  qerr : Nat := 0
  head : Word := 0
  tail : Word := 0
  deriving DecidableEq, Repr

/-- A pager request that has not been resolved (R375, R454). -/
structure PagerReq where
  number : Nat
  ctx : Nat
  agent : Option Nat
  va : Nat
  deriving DecidableEq, Repr

/-- A tenant's window (R382, R453, R457). -/
structure Tenant where
  en : Bool := false
  hport : Nat := 0
  q : Vector QDesc 8 := Vector.replicate 8 (({} : QDesc))
  kv : Vector DWord 7 := Vector.replicate 7 0
  irqaddr : Nat := 0
  irqpend : DWord := 0
  irqmask : DWord := 0xFFFFFFFFFFFFFFFF
  evtvec : Nat := 63
  evtpend : BitVec 3 := 0
  lastend : DWord := 0
  pgbase : Nat := 0
  pglog2 : Nat := 0
  pgtail : Word := 0
  pghead : Word := 0
  pgnext : Word := 0
  pgopen : List PagerReq := []
  cmdbusy : Option Nat := none
  invlo : DWord := 0
  invhi : DWord := 0
  nonce : BitVec 256 := 0
  attaddr : Nat := 0
  attwait : Bool := false
  diewin : Vector (DWord × DWord) 8 := Vector.replicate 8 (0, 0)
  heldFrames : List Nat := []
  deriving DecidableEq, Repr

/-- A collective a member has issued and not finished (R361 to R367). `opseq` is its number in the
path counter, `lastAt` the clock in which it last sent or received a message, or issued; `fin` the STATE, CRANK and ECODE of one
that has ended and waits for the page of its status word. -/
structure Coll where
  seq : Nat
  gen : Nat
  gid : Nat
  core : Nat
  opseq : Nat
  lastAt : Nat := 0
  kind : CollKind
  fmt : Fmt
  count : Nat
  rop : Nat
  root : Nat
  rank : Nat
  src : Nat
  dst : Nat
  stat : Nat
  cleat : Nat
  cle : Bool
  msgs : List CollMsg := []
  sent : Bool := false
  failed : Bool := false
  fin : Option (Nat × Nat × Nat) := none
  deriving DecidableEq, Repr

/-- A member's tackle on the engine of its die (R360, R361, R370). `held` lists the REFORM messages of a later generation, `early` data messages of a collective not yet issued. `gone` says that its
context has ended: it keeps its place in the list. -/
structure Tackle where
  addr : Nat
  ctx : Nat
  die : Nat
  device : Nat := 0
  rank : Nat
  tkid : Word
  gen : Nat
  nmem : Nat
  cap : Nat
  entries : List (Nat × Nat)
  aborted : Bool := false
  crank : Nat := 0
  ecode : Nat := 0
  forwarded : Bool := false
  nextseq : Nat := 0
  status : List (Nat × DWord) := []
  pending : List Coll := []
  held : List (Nat × Nat × Nat × Nat) := []
  early : List CollMsg := []
  reformSince : Option Nat := none
  arrived : List (Nat × Nat) := []
  gone : Bool := false
  deriving DecidableEq, Repr

/-- What leaves the device; what goes to a tenant's host leaves on the tenant's port (R317, R357, R367, R370, R451, R456, R461). -/
inductive OutMsg
  | irq (tenant port addr : Nat) (value : Nat)
  | hostRead (tenant port pa : Nat) (bytes : List Byte)
  | fabricWrite (device tenant fjob va : Nat) (bytes : List Byte)
  | fabricReply (tenant fjob va : Nat) (refused : Bool)
  | collData (tkid : Word) (msg : CollMsg)
  | abort (tkid : Word) (gen crank ecode : Nat)
  | reform (tkid : Word) (gen rank hash : Nat)
  | report (tenant port addr : Nat) (bytes : List Byte)
  deriving DecidableEq, Repr

/-- Which variant the device is (R2). -/
inductive Variant
  | y2m | y2p | y2s
  deriving DecidableEq, Repr

/-- What acts in a step: the model's own schedule (log 7). -/
inductive Act
  | strand (gid j : Nat)
  | capstan (gid : Nat)
  | event (i : Instr)
  | tick
  deriving DecidableEq, Repr

/-- The agent that acts, with the words it fetched: what exec reads besides the instruction. -/
structure Current where
  agent : Agent
  iw0 : DWord := 0
  iw1 : DWord := 0
  deriving DecidableEq, Repr

/-- A measurement of the boot ROM (R460). -/
structure Measurement where
  image : Nat
  version : Word
  digest : BitVec 512
  deriving DecidableEq, Repr

/-- A write from another device that waits for its page (R357). -/
structure FabricIn where
  tenant : Nat
  fjob : Nat
  va : Nat
  bytes : List Byte
  deriving DecidableEq, Repr

/-- A device event, by tenant and EVTPEND bit, that waits for a write of the device's own to an absent page (R375, R456). -/
structure HeldEvent where
  ctx : Nat
  va : Nat
  len : Nat
  tenant : Nat
  bit : Nat
  deriving DecidableEq, Repr

/-- The device. `fresh` lists the poisoned lines whose error no access has met yet, each with the unit it lies in (R270, R272);
`held` the bytes that the device's own units have written to absent pages, by context and virtual address, and `fabricIn` the
writes of other devices: both wait for the pager (R357, R375). `heldEvts` lists the device events that are raised once the
write that raises them, which is held, has been performed (R456). -/
structure State where
  clock : Nat
  variant : Variant
  boot : Nat
  log : List Measurement
  mem : Memory
  l2 : List L2Line
  l2ptr : List (Nat × Nat)
  poison : List Nat
  fresh : List (Nat × Nat)
  held : List (Nat × Nat × Byte)
  heldEvts : List HeldEvent
  fabricIn : List FabricIn
  dtiles : List DTile
  cecnt : Vector (BitVec 48) 8
  hwlink : Vector (BitVec 3) 8
  trip : Bool
  tenants : Vector Tenant 16
  ctxs : List Ctx
  cores : List (Nat × Core)
  grids : List Grid
  groups : List Group
  builds : List Build
  nextChain : Nat
  tackles : List Tackle
  reservations : List Reservation
  lastDie : Option Nat
  lastCore : Vector (Option Nat) 8
  lastQueue : Nat
  nextGid : Nat
  nextSeq : Nat
  agenda : List Act
  cur : Option Current
  free : Nat
  outbox : List OutMsg
  deriving DecidableEq, Repr

/-- The device right after reset (R463): nothing placed, no queue enabled, caches and poison tables empty. The boot
itself is DEVICE_RESET. -/
def State.reset : State :=
  { clock := 0, variant := .y2m, boot := 0, log := [], mem := [], l2 := [], l2ptr := [], poison := [], fresh := [], held := [], heldEvts := [], fabricIn := [], dtiles := [],
    cecnt := Vector.replicate 8 0, hwlink := Vector.replicate 8 0, trip := false,
    tenants := Vector.replicate 16 (({} : Tenant)), ctxs := [], cores := [], grids := [], groups := [], builds := [],
    nextChain := 1, tackles := [], reservations := [], lastDie := none, lastCore := Vector.replicate 8 none, lastQueue := 0,
    nextGid := 0, nextSeq := 0, agenda := [], cur := none, free := 0, outbox := [] }

/-- Why the model stops with a fault. Both are raised by exec alone and say that the question is empty: there is no
agent to run the instruction. Safe: the hardware always has one. -/
inductive Fault
  /-- exec of a strand instruction with no current resident strand. Safe. -/
  | noCurrentStrand
  /-- exec of a bundle with no current Capstan. Safe. -/
  | noCurrentCapstan
  deriving DecidableEq, Repr

/-- Why the model refuses an instruction. -/
inductive Refusal
  /-- Raised by an arm of exec that has no meaning yet. Safe. -/
  | notModelled (mnemonic : String)
  deriving DecidableEq, Repr

end Sys2Proof.Machine
end

