-- ==== Sys2Proof/Machine/Mem.lean ====
section
/-! DEFINITION. Sparse tables in canonical form, the memory bytes built on them, and small list and bit helpers. -/

namespace Sys2Proof.Machine

/-! ### Canonical tables: keys strictly rising, no entry equal to the default -/

/-- The value at key k; d where none is listed. -/
def tget {α : Type} (d : α) : List (Nat × α) → Nat → α
  | [], _ => d
  | (j, x) :: m, k => if k = j then x else tget d m k

/-- The table with value x at key k. A value equal to the default is not listed. -/
def tset {α : Type} [DecidableEq α] (d : α) : List (Nat × α) → Nat → α → List (Nat × α)
  | [], k, x => if x = d then [] else [(k, x)]
  | (j, y) :: m, k, x =>
      if k < j then (if x = d then (j, y) :: m else (k, x) :: (j, y) :: m)
      else if k = j then (if x = d then m else (k, x) :: m)
      else (j, y) :: tset d m k x

/-- The canonical form, above a lower bound on the keys. -/
def tableFrom {α : Type} [DecidableEq α] (d : α) : Nat → List (Nat × α) → Bool
  | _, [] => true
  | lo, (j, x) :: m => decide (lo ≤ j) && decide (x ≠ d) && tableFrom d (j + 1) m

/-- The canonical form. -/
def tableWf {α : Type} [DecidableEq α] (d : α) (m : List (Nat × α)) : Bool := tableFrom d 0 m

/-! ### Bytes -/

/-- The canonical form of a memory. -/
def Memory.wf (m : Memory) : Bool := tableWf (0 : Byte) m

/-- The byte at an address. -/
def readByte (m : Memory) (a : Nat) : Byte := tget 0 m a

/-- The memory with a byte written. -/
def writeByte (m : Memory) (a : Nat) (b : Byte) : Memory := tset 0 m a b

/-- n bytes from an address. -/
def readBytes (m : Memory) (a : Nat) : Nat → List Byte
  | 0 => []
  | n + 1 => readByte m a :: readBytes m (a + 1) n

/-- The memory with bytes written from an address. -/
def writeBytes (m : Memory) (a : Nat) : List Byte → Memory
  | [] => m
  | b :: bs => writeBytes (writeByte m a b) (a + 1) bs

/-- The little-endian number of n bytes at an address (R5). -/
def readNat (m : Memory) (a n : Nat) : Nat := leNat (readBytes m a n)

/-- The memory with the n little-endian bytes of v written. -/
def writeNat (m : Memory) (a n v : Nat) : Memory := writeBytes m a (leBytes n v)

/-- The memory with n bytes cleared. -/
def clearBytes (m : Memory) (a n : Nat) : Memory := writeBytes m a (List.replicate n 0)

/-! ### Association lists without a canonical form -/

/-- The entry of a key. -/
def aget {α : Type} (l : List (Nat × α)) (k : Nat) : Option α := (l.find? fun e => e.1 == k).map (·.2)

/-- The list with the entry of a key replaced or added. -/
def aset {α : Type} (l : List (Nat × α)) (k : Nat) (x : α) : List (Nat × α) :=
  if l.any fun e => e.1 == k then l.map fun e => if e.1 == k then (k, x) else e else l ++ [(k, x)]

/-- The list without the entry of a key. -/
def adel {α : Type} (l : List (Nat × α)) (k : Nat) : List (Nat × α) := l.filter fun e => e.1 != k

/-! ### Bits -/

/-- Bits hi:lo of a number. -/
def bits (x hi lo : Nat) : Nat := x / 2 ^ lo % 2 ^ (hi + 1 - lo)

/-- Bit n of a number. -/
def tbit (x n : Nat) : Bool := x / 2 ^ n % 2 == 1

/-- 1 for true. -/
def b2n (b : Bool) : Nat := if b then 1 else 0

/-- Sign extension of the low n bits to 64 bits, as a number below 2^64 (R9). -/
def sext64 (n x : Nat) : Nat :=
  let y := x % 2 ^ n
  if n ≠ 0 ∧ 2 ^ (n - 1) ≤ y then y + 2 ^ 64 - 2 ^ n else y

/-- The sum of two addresses modulo 2^64. -/
def add64 (a b : Nat) : Nat := (a + b) % 2 ^ 64

/-- The 32 lanes. -/
def lanes32 : List Nat := List.range 32

/-- The lanes of a mask, in increasing order. -/
def maskLanes (m : Word) : List Nat := lanes32.filter fun i => m.getLsbD i

/-- The mask of the lanes that satisfy a test. -/
def maskOf (f : Nat → Bool) : Word :=
  lanes32.foldl (fun m i => if f i then m ||| (1#32 <<< i) else m) 0

/-- The lowest lane of a mask. -/
def lowLane (m : Word) : Option Nat := lanes32.find? fun i => m.getLsbD i

/-- Replace the element of a list at a position. -/
def updAt {α : Type} (l : List α) (n : Nat) (f : α → α) : List α :=
  l.mapIdx fun k x => if k = n then f x else x

/-- Two byte ranges overlap. -/
def overlaps (a n b m : Nat) : Bool := a < b + m && b < a + n && n != 0 && m != 0

end Sys2Proof.Machine
end

