-- ==== Sys2Proof/Machine/Numbers.lean ====
section
/-! DEFINITION. Numbers (spec/04_numbers.md): decoding the fourteen formats to exact values, exact arithmetic, the
correctly rounded functions, rounding in every mode, and NaN payloads. -/

namespace Sys2Proof

/-! ### Formats (R89 to R96) -/

/-- Bits of an element. -/
def Fmt.width : Fmt → Nat
  | .f32 | .i32 | .ui32 | .b32 => 32
  | .f16 | .bf16 | .i16 => 16
  | .m8 | .e4m3 | .e5m2 | .i8 | .ui8 => 8
  | .fp4 | .i4 => 4
  | .f64 => 64

/-- Exponent bits, fraction bits and bias of a format with a sign, an exponent and a fraction field (R91, R92). -/
def Fmt.ieee : Fmt → Option (Nat × Nat × Nat)
  | .f32 => some (8, 23, 127)
  | .f16 => some (5, 10, 15)
  | .bf16 => some (8, 7, 127)
  | .f64 => some (11, 52, 1023)
  | .e4m3 => some (4, 3, 7)
  | .e5m2 => some (5, 2, 15)
  | _ => none

/-- Two's complement formats (R96). -/
def Fmt.signed : Fmt → Bool
  | .i32 | .i16 | .i8 | .i4 => true
  | _ => false

end Sys2Proof

namespace Sys2Proof.Machine

/-- An exact value: (-1)^neg × mag × 2^exp, an infinity, a NaN with its format and code, or the outcome of an invalid
operation (R103) that has no NaN operand. A value that is not dyadic is held to well over 128 significant bits, the
last of them set, so that every rounding of it is right (log 12). -/
inductive Num
  | fin (neg : Bool) (mag : Nat) (exp : Int)
  | inf (neg : Bool)
  | nan (neg : Bool) (f : Fmt) (code : Nat)
  | bad
  deriving DecidableEq, Repr

/-- The exponent of an M8 code of 1 to 127 and its fraction: f and wf (R94). -/
def m8Parts (c : Nat) : Int × Nat × Nat :=
  let z := 6 - Nat.log2 c
  let low := c % 2 ^ (6 - z)
  let row : Nat × Nat × Int × Int := match z with
    | 0 => (1, 5, -1, 0)
    | 1 => (2, 3, -2, 1)
    | 2 => (3, 1, -4, 3)
    | 3 => (3, 0, -8, 7)
    | 4 => (2, 0, -12, 11)
    | 5 => (1, 0, -14, 13)
    | _ => (0, 0, -15, 0)
  let f := low % 2 ^ row.2.1
  let dj := low / 2 ^ row.2.1
  if row.1 = 0 then (-15, 0, 0)
  else
    let j : Int := (dj % 2 ^ (row.1 - 1) : Nat)
    (if dj / 2 ^ (row.1 - 1) = 1 then row.2.2.2 + j else row.2.2.1 - j, f, row.2.1)

/-- The value of a code (R91 to R96). The FP4 extra value reads as −0 (R93). -/
def numOf (f : Fmt) (code : Nat) : Num :=
  match f with
  | .m8 =>
      let c := code % 128
      if c = 0 then (if tbit code 7 then .nan false .m8 code else .fin false 0 0)
      else let p := m8Parts c
        .fin (tbit code 7) (2 ^ p.2.2 + p.2.1) (p.1 - p.2.2)
  | .fp4 =>
      let m : Nat := match code % 8 with
        | 0 => 0 | 1 => 1 | 2 => 2 | 3 => 3 | 4 => 4 | 5 => 6 | 6 => 8 | _ => 12
      .fin (tbit code 3) m (-1)
  | _ => match f.ieee with
    | some (eb, fb, bias) =>
        let s := tbit code (eb + fb)
        let e := bits code (eb + fb - 1) fb
        let fr := code % 2 ^ fb
        if f = .e4m3 && code % 128 = 127 then .nan s f code
        else if f != .e4m3 && e = 2 ^ eb - 1 then (if fr = 0 then .inf s else .nan s f code)
        else if e = 0 then .fin s fr (1 - (bias : Int) - fb)
        else .fin s (fr + 2 ^ fb) ((e : Int) - bias - fb)
    | none =>
        let v := code % 2 ^ f.width
        if f.signed && tbit v (f.width - 1) then .fin true (2 ^ f.width - v) 0 else .fin false v 0

/-- Is the value zero? -/
def Num.isZero : Num → Bool
  | .fin _ 0 _ => true
  | _ => false

/-- Is the value a nonzero finite number? -/
def Num.isNonzero : Num → Bool
  | .fin _ 0 _ => false
  | .fin .. => true
  | _ => false

/-- Is the value a NaN? -/
def Num.isNan : Num → Bool
  | .nan .. => true
  | _ => false

/-- The sign. -/
def Num.neg : Num → Bool
  | .fin s _ _ | .inf s | .nan s _ _ => s
  | .bad => false

/-- E = floor(log2 |x|) of a nonzero finite value (R112). -/
def Num.expo : Num → Int
  | .fin _ m e => (Nat.log2 m : Int) + e
  | _ => 0

/-! ### Exact arithmetic -/

/-- Negation, an exact sign operation (R54); the M8 NaN has no sign (R104). -/
def Num.negate : Num → Num
  | .fin s m e => .fin (!s) m e
  | .inf s => .inf (!s)
  | .nan s f c => if f = .m8 then .nan s f c else .nan (!s) f (c ^^^ 2 ^ (f.width - 1))
  | .bad => .bad

/-- The absolute value (R54). -/
def Num.absolute (x : Num) : Num := if x.neg then x.negate else x

/-- The value as an integer at scale 2^e, for e no greater than its exponent. -/
def Num.atScale (x : Num) (e : Int) : Int :=
  match x with
  | .fin s m k => let v : Int := (m * 2 ^ (k - e).toNat : Nat)
                  if s then -v else v
  | _ => 0

/-- The exact value of an integer at scale 2^e. -/
def numAt (v e : Int) : Num := .fin (decide (v < 0)) v.natAbs e

/-- The first NaN of a list (R105). -/
def firstNan (l : List Num) : Option Num := l.find? Num.isNan

/-- The exact sum of two values; `rd` says that the rounding is RD, which decides the sign of an exact zero (R102). -/
def Num.add (rd : Bool) (a b : Num) : Num :=
  match a, b with
  | .nan .., _ => a
  | _, .nan .. => b
  | .bad, _ | _, .bad => .bad
  | .inf s, .inf t => if s = t then .inf s else .bad
  | .inf s, _ => .inf s
  | _, .inf t => .inf t
  | .fin s m e, .fin t n f =>
      let k := min e f
      let v := (Num.fin s m e).atScale k + (Num.fin t n f).atScale k
      if v = 0 then .fin (if rd then s || t else s && t) 0 0 else numAt v k

/-- The exact product. -/
def Num.mul (a b : Num) : Num :=
  match a, b with
  | .nan .., _ => a
  | _, .nan .. => b
  | .bad, _ | _, .bad => .bad
  | .inf s, .inf t => .inf (s != t)
  | .inf s, .fin t n _ => if n = 0 then .bad else .inf (s != t)
  | .fin s m _, .inf t => if m = 0 then .bad else .inf (s != t)
  | .fin s m e, .fin t n f => .fin (s != t) (m * n) (e + f)

/-- The quotient: exact, or held to 128 bits and more with its last bit set. -/
def Num.div (a b : Num) : Num :=
  match a, b with
  | .nan .., _ => a
  | _, .nan .. => b
  | .bad, _ | _, .bad => .bad
  | .inf _, .inf _ => .bad
  | .inf s, .fin t _ _ => .inf (s != t)
  | .fin s _ _, .inf t => .fin (s != t) 0 0
  | .fin s m e, .fin t n f =>
      if n = 0 then (if m = 0 then .bad else .inf (s != t))
      else if m = 0 then .fin (s != t) 0 0
      else
        let sh := 130 + Nat.log2 n
        let q := m * 2 ^ sh / n
        .fin (s != t) (2 * q + b2n (m * 2 ^ sh % n != 0)) (e - f - (sh : Int) - 1)

/-- a is below b; −0 is below +0 where `zeros` says so. NaNs are never below. -/
def Num.lt (zeros : Bool) (a b : Num) : Bool :=
  match a, b with
  | .inf s, .inf t => s && !t
  | .inf s, .fin .. => s
  | .fin .., .inf t => !t
  | .fin s m e, .fin t n f =>
      let k := min e f
      let v := (Num.fin s m e).atScale k
      let w := (Num.fin t n f).atScale k
      decide (v < w) || (zeros && v == 0 && w == 0 && s && !t)
  | _, _ => false

/-- a equals b as numbers, with −0 = +0. -/
def Num.eq (a b : Num) : Bool := !a.isNan && !b.isNan && !a.lt false b && !b.lt false a

/-! ### Roots and functions (R171, R172) -/

/-- The integer square root, bit by bit from bit n. -/
def isqrtFrom : Nat → Nat → Nat → Nat
  | 0, _, r => r
  | n + 1, x, r => let t := r + 2 ^ n
                   isqrtFrom n x (if t * t ≤ x then t else r)

/-- The integer square root. -/
def isqrt (x : Nat) : Nat := isqrtFrom (Nat.log2 x / 2 + 1) x 0

/-- A magnitude and an even exponent of the same value. -/
def evenExp (m : Nat) (e : Int) : Nat × Int := if e % 2 = 0 then (m, e) else (2 * m, e - 1)

/-- The square root of a positive value. -/
def sqrtPos (m : Nat) (e : Int) : Num :=
  let p := evenExp m e
  let x := p.1 * 2 ^ 280
  let r := isqrt x
  .fin false (2 * r + b2n (r * r != x)) (p.2 / 2 - 141)

/-- The reciprocal square root of a positive value. -/
def rsqrtPos (m : Nat) (e : Int) : Num :=
  let p := evenExp m e
  let k := 160 + Nat.log2 p.1
  let q := 2 ^ (2 * k) / p.1
  let r := isqrt q
  .fin false (2 * r + b2n (2 ^ (2 * k) % p.1 != 0 || r * r != q)) (-(k : Int) - p.2 / 2 - 1)

/-- Fraction bits of the fixed-point numbers below. -/
def fixBits : Nat := 900

/-- π/2 at 2^900, rounded down. -/
def halfPi : Nat := 0x1921fb54442d18469898cc51701b839a252049c1114cf98e804177d4c76273644a29410f31c6809bbdf2a33679a748636605614dbe4be286e9fc26adadaa3848bc90b6aecc4bcfd8de89885d34c6fdad617feb96de80d6fdbdc70d7f6b5133f4b5d3e4822f8963fcc9250cca3d9c8b67b8

/-- ln 2 at 2^900, rounded down. -/
def lnTwo : Nat := 0xb17217f7d1cf79abc9e3b39803f2f6af40f343267298b62d8a0d175b8baafa2be7b876206debac98559552fb4afa1b10ed2eae35c138214427573b291169b8253e96ca16224ae8c51acbda11317c387eb9ea9bc3b136603b256fa0ec7657f74b72ce87b19d6548caf5dfa6bd383032486

/-- The sum of y^k / k! from a term on, at 2^900. -/
def expSeries : Nat → Nat → Nat → Nat → Nat
  | 0, _, _, _ => 0
  | n + 1, k, y, t => t + expSeries n (k + 1) y (t * y / 2 ^ fixBits / (k + 1))

/-- e^y at 2^900 for y below 1 at 2^900. -/
def expFix (y : Nat) : Nat := expSeries 170 0 y (2 ^ fixBits)

/-- The sum of z^(2k+1) / (2k+1) from a power on, at 2^900. -/
def atanhSeries : Nat → Nat → Nat → Nat → Nat
  | 0, _, _, _ => 0
  | n + 1, k, zz, t => t / (2 * k + 1) + atanhSeries n (k + 1) zz (t * zz / 2 ^ fixBits)

/-- The alternating series of the sine (from k = 1) or cosine (from k = 0), as its positive and negative parts. -/
def trigSeries : Nat → Nat → Nat → Nat → Bool → Nat × Nat
  | 0, _, _, _, _ => (0, 0)
  | n + 1, k, rr, t, minus =>
      let p := trigSeries n (k + 2) rr (t * rr / 2 ^ fixBits / ((k + 1) * (k + 2))) (!minus)
      if minus then (p.1, p.2 + t) else (p.1 + t, p.2)

/-- sin r at 2^900 for r from 0 to π/2 at 2^900. -/
def sinFix (r : Nat) : Nat := let p := trigSeries 110 1 (r * r / 2 ^ fixBits) r false
                              p.1 - p.2

/-- cos r at 2^900 for r from 0 to π/2 at 2^900. -/
def cosFix (r : Nat) : Nat := let p := trigSeries 110 0 (r * r / 2 ^ fixBits) (2 ^ fixBits) false
                              p.1 - p.2

/-- A fixed-point magnitude that is not exact. -/
def fixNum (s : Bool) (v : Nat) : Num := .fin s (2 * v + 1) (-(fixBits : Int) - 1)

/-- The magnitude of a finite value at 2^900, floored. -/
def toFix (m : Nat) (e : Int) : Nat :=
  let k := e + fixBits
  if 0 ≤ k then m * 2 ^ k.toNat else m / 2 ^ (-k).toNat

/-- 2^x for a nonzero finite x. -/
def exp2Num (s : Bool) (m : Nat) (e : Int) : Num :=
  if 12 ≤ (Num.fin s m e).expo then .fin false 3 (if s then -8192 else 8192)
  else
    let x := toFix m e
    let n := x / 2 ^ fixBits
    let f := x % 2 ^ fixBits
    if f = 0 then .fin false 1 (if s then -(n : Int) else n)
    else
      let f' := if s then 2 ^ fixBits - f else f
      let n' : Int := if s then -(n : Int) - 1 else n
      .fin false (2 * expFix (f' * lnTwo / 2 ^ fixBits) + 1) (n' - fixBits - 1)

/-- log2 x for a positive finite x. -/
def log2Num (m : Nat) (e : Int) : Num :=
  let b := Nat.log2 m
  let x : Int := (b : Int) + e
  if m = 2 ^ b then numAt x 0
  else
    let y := m * 2 ^ fixBits / 2 ^ b
    let z := (y - 2 ^ fixBits) * 2 ^ fixBits / (y + 2 ^ fixBits)
    let l := 2 * atanhSeries 300 0 (z * z / 2 ^ fixBits) z * 2 ^ fixBits / lnTwo
    let t : Int := x * (2 ^ fixBits : Nat) + l
    fixNum (decide (t < 0)) t.natAbs

/-- sin x or cos x for a nonzero finite x. -/
def trigNum (sine s : Bool) (m : Nat) (e : Int) : Num :=
  let x := toFix m e
  let k := x / halfPi % 4
  let r := x % halfPi
  let k' := if sine then k else (k + 1) % 4
  fixNum ((sine && s) != decide (2 ≤ k')) (if k' % 2 = 0 then sinFix r else cosFix r)

/-- tanh x for a nonzero finite x. -/
def tanhNum (s : Bool) (m : Nat) (e : Int) : Num :=
  if 10 ≤ (Num.fin s m e).expo then .fin s (2 ^ 1200 - 1) (-1200)
  else
    let y := 2 * toFix m e
    let g := expFix (y % lnTwo) * 2 ^ (y / lnTwo)
    .fin s (2 * ((g - 2 ^ fixBits) * 2 ^ 1200 / (g + 2 ^ fixBits)) + 1) (-1201)

/-- The functions of one operand. -/
inductive Fn
  | rcp | sqrt | rsq | exp2 | log2 | sin | cos | tanh
  deriving DecidableEq, Repr

/-- The exact function of an operand that is no NaN (R172). -/
def Fn.apply (f : Fn) (x : Num) : Num :=
  match f, x with
  | _, .nan .. | _, .bad => x
  | .rcp, x => Num.div (.fin false 1 0) x
  | .sqrt, .inf s => if s then .bad else x
  | .sqrt, .fin s m e => if m = 0 then x else if s then .bad else sqrtPos m e
  | .rsq, .inf s => if s then .bad else .fin false 0 0
  | .rsq, .fin s m e => if m = 0 then .inf s else if s then .bad else rsqrtPos m e
  | .exp2, .inf s => if s then .fin false 0 0 else x
  | .exp2, .fin s m e => if m = 0 then .fin false 1 0 else exp2Num s m e
  | .log2, .inf s => if s then .bad else x
  | .log2, .fin s m e => if m = 0 then .inf true else if s then .bad else log2Num m e
  | .sin, .inf _ | .cos, .inf _ => .bad
  | .sin, .fin s m e => if m = 0 then x else trigNum true s m e
  | .cos, .fin s m e => if m = 0 then .fin false 1 0 else trigNum false s m e
  | .tanh, .inf s => .fin s 1 0
  | .tanh, .fin s m e => if m = 0 then x else tanhNum s m e

/-! ### Rounding (R97 to R102) -/

/-- What a rounding gives: the code, whether R101 produced it, and whether the exact value was no value of the format. -/
structure Rounded where
  code : Nat
  ovf : Bool := false
  inexact : Bool := false
  deriving DecidableEq, Repr

/-- Does a magnitude between two neighbours go to the upper one? `rem` over `d` is its place between them; `toLow` says
that a tie goes to the lower (R97 to R100). -/
def goesUp (mode : RMode) (neg toLow : Bool) (rem d draw : Nat) : Bool :=
  rem != 0 && match mode with
    | .rn => decide (d < 2 * rem) || (2 * rem == d && !toLow)
    | .rz => false
    | .ru => !neg
    | .rd => neg
    | .rs => decide (draw < 65536 * rem / d)

/-- The floor of |x| / 2^q, the remainder and the divisor. -/
def quant (m : Nat) (e q : Int) : Nat × Nat × Nat :=
  if q ≤ e then (m * 2 ^ (e - q).toNat, 0, 1) else let d := 2 ^ (q - e).toNat
                                                   (m / d, m % d, d)

/-- Rounding to a format with an infinity, or to E4M3 within its range. `emax` is the exponent of the largest finite
value. -/
def roundIeee (eb fb bias emax : Nat) (s : Bool) (m : Nat) (e : Int) (mode : RMode) (sat : Bool) (draw : Nat) : Rounded :=
  let sign := b2n s * 2 ^ (eb + fb)
  if m = 0 then { code := sign }
  else
    let top := (2 ^ eb - 1) * 2 ^ fb
    let q : Int := max ((Nat.log2 m : Int) + e) (1 - (bias : Int)) - fb
    let r := quant m e q
    let outside : Bool := decide ((emax : Int) < q + fb) ||
      (q + fb == (emax : Int) && r.1 == 2 ^ (fb + 1) - 1 && r.2.1 != 0)
    let mode' := if mode = .rs ∧ outside then .rn else mode
    let v := r.1 + b2n (goesUp mode' s (r.1 % 2 == 0) r.2.1 r.2.2 draw)
    let v' := if v = 2 ^ (fb + 1) then 2 ^ fb else v
    let q' := if v = 2 ^ (fb + 1) then q + 1 else q
    if 2 ^ fb ≤ v' ∧ (emax : Int) < q' + fb then
      let most : Bool := sat || match mode with
        | .rz => true
        | .ru => s
        | .rd => !s
        | _ => false
      { code := sign + (if most then top - 1 else top), ovf := true, inexact := true }
    else if 2 ^ fb ≤ v' then
      { code := sign + (q' + fb + bias).toNat * 2 ^ fb + (v' - 2 ^ fb), inexact := r.2.1 != 0 }
    else { code := sign + v', inexact := r.2.1 != 0 }

/-- The positive finite codes of a format whose values are no plain floating-point grid. -/
def gridCodes : Fmt → Nat
  | .m8 => 128
  | _ => 8

/-- The value of a positive code of M8 or FP4 at scale 2^−15. -/
def gridVal (f : Fmt) (c : Nat) : Nat := ((numOf f c).atScale (-15)).toNat

/-- The largest code value at or below X / D and the smallest at or above it, each with its code. -/
def neighbours (f : Fmt) (x d : Nat) : (Nat × Nat) × (Nat × Nat) :=
  (List.range (gridCodes f)).foldl (fun p c =>
    let v := gridVal f c
    (if v * d ≤ x && (c == 0 || decide (p.1.1 < v)) then (v, c) else p.1,
     if x ≤ v * d && decide (v < p.2.1) then (v, c) else p.2)) ((0, 0), (2 ^ 30, 0))

/-- What R101 gives for M8, FP4 and E4M3. DESIGN CHOICE (log 107): R101 says that an E4M3 overflow without SAT is a NaN, and
R92 has two, 0x7F and 0xFF; the model gives it the sign of x. -/
def overCode (f : Fmt) (s sat : Bool) : Nat :=
  match f with
  | .m8 => if sat then 3 + 128 * b2n s else 0x80
  | .e4m3 => (if sat then 0x7E else 0x7F) + 128 * b2n s
  | _ => 7 + 8 * b2n s

/-- Rounding to M8 or FP4. -/
def roundGrid (f : Fmt) (s : Bool) (m : Nat) (e : Int) (mode : RMode) (sat : Bool) (draw : Nat) : Rounded :=
  let x := m * 2 ^ (e + 15).toNat
  let d := 2 ^ (-15 - e).toNat
  let most := if f = .m8 then 2 ^ 28 else 6 * 2 ^ 15
  if most * d < x then { code := overCode f s sat, ovf := true, inexact := true }
  else
    let p := neighbours f x d
    let lo := p.1
    let hi := p.2
    let up := goesUp mode s (lo.2 % 2 == 0 || hi.2 % 2 == 1) (x - lo.1 * d) ((hi.1 - lo.1) * d) draw
    let c := if up then hi.2 else lo.2
    { code := if c = 0 then 0 else c + b2n s * 2 ^ (f.width - 1), inexact := lo.1 * d != x }

/-- The least and the greatest value of an integer format (R96). -/
def intRange (f : Fmt) : Int × Int :=
  if f.signed then (-(2 ^ (f.width - 1) : Nat), (2 ^ (f.width - 1) : Nat) - 1) else (0, (2 ^ f.width : Nat) - 1)

/-- An integer as the code of a format, modulo 2^w. -/
def intCode (f : Fmt) (v : Int) : Nat := (v % (2 ^ f.width : Nat)).toNat

/-- An integer clamped to the range of a format. -/
def clampInt (f : Fmt) (v : Int) : Int := max (intRange f).1 (min (intRange f).2 v)

/-- Is a value outside the range of an integer format, before any rounding (R98 step 2)? `r` is its magnitude as `quant` cuts
it at the units. -/
def beyond (f : Fmt) (s : Bool) (r : Nat × Nat × Nat) : Bool :=
  let most := if s then -(intRange f).1 else (intRange f).2
  decide (most < (r.1 : Int)) || ((r.1 : Int) == most && r.2.1 != 0)

/-- round_to (R98) of a value that is no NaN. -/
def roundTo (f : Fmt) (x : Num) (mode : RMode) (sat : Bool) (draw : Nat) : Rounded :=
  match x with
  | .nan .. | .bad => { code := 0 }
  | .inf s => match f with
    | .m8 | .fp4 | .e4m3 => { code := overCode f s sat, ovf := true, inexact := true }
    | _ => match f.ieee with
      | some (eb, fb, _) => { code := b2n s * 2 ^ (eb + fb) + (2 ^ eb - 1) * 2 ^ fb }
      | none => { code := intCode f (if s then (intRange f).1 else (intRange f).2), ovf := true, inexact := true }
  | .fin s m e => match f with
    | .m8 | .fp4 => roundGrid f s m e mode sat draw
    | .e4m3 =>
        if (Num.fin false 448 0).lt false (.fin false m e) then { code := overCode f s sat, ovf := true, inexact := true }
        else roundIeee 4 3 7 8 s m e mode sat draw
    | _ => match f.ieee with
      | some (eb, fb, bias) => roundIeee eb fb bias bias s m e mode sat draw
      | none =>
          let r := quant m e 0
          let v : Int := (r.1 + b2n (goesUp mode s (r.1 % 2 == 0) r.2.1 r.2.2 draw) : Nat)
          let w := if s then -v else v
          if beyond f s r then { code := intCode f (if s then (intRange f).1 else (intRange f).2), ovf := true, inexact := true }
          else { code := intCode f w, inexact := r.2.1 != 0 }

/-! ### NaN payloads (R103 to R106) -/

/-- fold16 (R104). -/
def fold16 (pc : DWord) : Nat :=
  bits pc.toNat 17 2 ^^^ bits pc.toNat 33 18 ^^^ bits pc.toNat 47 34

/-- Where an origin payload comes from: word lane, 0 for a strand and 1 for the Capstan, and the PC (R104). -/
structure NanSrc where
  lane : Nat
  origin : Nat
  pc : DWord
  deriving DecidableEq, Repr

/-- The origin NaN of a format; the format's NaN for M8, E4M3 and E5M2; code 0 for FP4 and the integers (R103, R104). -/
def originNan (f : Fmt) (o : NanSrc) : Nat :=
  let k := fold16 o.pc
  match f with
  | .f32 => 0x7FC00000 + o.lane * 2 ^ 17 + o.origin * 2 ^ 16 + k
  | .f64 => 0x7FF8000000000000 + o.lane * 2 ^ 17 + o.origin * 2 ^ 16 + k
  | .f16 => 0x7E00 + o.lane * 16 + k % 16
  | .bf16 => 0x7FC0 + o.lane * 2 + o.origin
  | .m8 => 0x80
  | .e4m3 => 0x7F
  | .e5m2 => 0x7E
  | _ => 0

/-- A NaN's fraction with bit 0 set where it would be zero (R106). -/
def keepNan (fb c : Nat) : Nat := if c % 2 ^ fb = 0 then c + 1 else c

/-- A NaN of BF16, F16, F64 or F32 in F32 (R106). -/
def nanToF32 (f : Fmt) (c : Nat) : Nat :=
  match f with
  | .bf16 => c * 2 ^ 16
  | .f16 => keepNan 23 (bits c 15 15 * 2 ^ 31 + 0x7F800000 + bits c 9 9 * 2 ^ 22 + bits c 8 4 * 2 ^ 17 + c % 16)
  | .f64 => keepNan 23 (bits c 63 63 * 2 ^ 31 + 0x7F800000 + bits c 51 51 * 2 ^ 22 + c % 2 ^ 22)
  | _ => c

/-- An F32 NaN in BF16, F16, F64 or F32 (R106). -/
def nanFromF32 (f : Fmt) (c : Nat) : Nat :=
  match f with
  | .bf16 => keepNan 7 (c / 2 ^ 16)
  | .f16 => keepNan 10 (bits c 31 31 * 2 ^ 15 + 0x7C00 + bits c 22 22 * 2 ^ 9 + bits c 21 17 * 16 + c % 16)
  | .f64 => keepNan 52 (bits c 31 31 * 2 ^ 63 + 0x7FF0000000000000 + bits c 22 22 * 2 ^ 51 + c % 2 ^ 22)
  | _ => c

/-- The NaN of one format in another (R106). A pair without a row of its own goes by way of F32 (log 13). -/
def nanTo (src : Fmt) (code : Nat) (neg : Bool) (dst : Fmt) (o : NanSrc) : Nat :=
  if src = dst then code
  else match dst with
    | .m8 => 0x80
    | .e4m3 => 0x7F + 128 * b2n neg
    | .e5m2 => 0x7E + 128 * b2n neg
    | .f32 | .f16 | .bf16 | .f64 =>
        match src with
        | .m8 | .e4m3 | .e5m2 => originNan dst o + b2n neg * 2 ^ (dst.width - 1)
        | _ => nanFromF32 dst (nanToF32 src code)
    | _ => 0

/-- The code of a NaN operand in the format of a result (R105). -/
def Num.nanCode (x : Num) (dst : Fmt) (o : NanSrc) : Nat :=
  match x with
  | .nan s f c => nanTo f c s dst o
  | _ => originNan dst o

/-! ### Stochastic rounding (R100) -/

/-- The next state of a generator; its draw is the upper half. -/
def nextGen (g : Word) : Word :=
  let g1 := g ^^^ (g <<< 13)
  let g2 := g1 ^^^ (g1 >>> 17)
  g2 ^^^ (g2 <<< 5)

/-- The seed of lane i of unit u. -/
def seedGen (srseed : Word) (u i : Nat) : Word :=
  let g := srseed ^^^ (0x9E3779B9#32 * BitVec.ofNat 32 (64 * u + i + 1))
  if g = 0 then 1 else g

/-- Every generator of a unit seeded. -/
def seedUnit (srseed : Word) (u : Nat) : Vector Word 32 := Vector.ofFn fun i => seedGen srseed u i.val

/-- round_to with a lane's generator: RS takes one draw where the exact value is no value of the format. -/
def roundGen (f : Fmt) (x : Num) (mode : RMode) (sat : Bool) (g : Word) : Rounded × Word :=
  let g' := nextGen g
  let r := roundTo f x mode sat (g'.toNat / 65536)
  (r, if mode = .rs ∧ r.inexact then g' else g)

end Sys2Proof.Machine
end

