-- ==== Sys2Proof/Machine/Flags.lean ====
section
/-! DEFINITION. The architecture's flags: significance counts and their tag layouts (R112 to R118), and one element of
a floating-point operation with its count (R105, R116, R167, R172). -/

namespace Sys2Proof

/-- The precision p of a code (R91 to R94, R112, R160). -/
def Fmt.prec (f : Fmt) (code : Nat) : Nat :=
  match f with
  | .f32 => 24 | .f16 => 11 | .bf16 => 8 | .f64 => 53 | .e4m3 => 4 | .e5m2 => 3 | .fp4 => 2
  | .m8 => if code % 128 = 0 then 6 else 1 + (Machine.m8Parts (code % 128)).2.2
  | _ => 0

/-- The exponent of the smallest normal (R91, R92); M8 has no subnormals, FP4's smallest normal is 1 (R169). -/
def Fmt.emin : Fmt → Int
  | .f32 | .bf16 => -126
  | .f16 | .e5m2 => -14
  | .f64 => -1022
  | .e4m3 => -6
  | .m8 => -15
  | _ => 0

end Sys2Proof

namespace Sys2Proof.Machine

/-! ### Tag layouts (R113, R160) -/

/-- The count of element k read back from a tag byte, and whether it is tracked. -/
def countGet (f : Fmt) (tag : Byte) (k code : Nat) : Nat × Bool :=
  let t := tag.toNat
  let p := f.prec code
  match f with
  | .f32 => if t % 32 = 31 then (p, false) else (min (t % 32) 24, true)
  | .f64 => if t = 255 then (p, false) else (min (t % 64) 53, true)
  | .f16 | .bf16 =>
      let c := t / 2 ^ (4 * k) % 16
      if c = 15 then (p, false) else (min c p, true)
  | .m8 | .e4m3 | .e5m2 => match t / 2 ^ (2 * k) % 4 with
    | 0 => (0, true)
    | 1 => (p - 2, true)
    | 2 => (p - 1, true)
    | _ => (p, true)
  | .fp4 => (if tbit t k then 2 else 0, true)
  | _ => (p, false)

/-- A field of n bits at position k of a byte replaced. -/
def putField (t : Byte) (n k v : Nat) : Byte :=
  BitVec.ofNat 8 (t.toNat % 2 ^ (n * k) + v % 2 ^ n * 2 ^ (n * k) + t.toNat / 2 ^ (n * k + n) * 2 ^ (n * k + n))

/-- setcnt (R159): the tag byte with the count of element k stored. -/
def countPut (f : Fmt) (tag : Byte) (k c code : Nat) : Byte :=
  let p := f.prec code
  let c := min c p
  match f with
  | .f32 | .f64 => BitVec.ofNat 8 c
  | .f16 | .bf16 => putField tag 4 k c
  | .m8 | .e4m3 | .e5m2 => putField tag 2 k (3 - min 3 (p - c))
  | .fp4 => putField tag 1 k (if c = 2 then 1 else 0)
  | _ => 0xFF

/-- The tag byte with element k untracked (R114, R167); full count where the layout has no untracked state. -/
def countNone (f : Fmt) (tag : Byte) (k code : Nat) : Byte :=
  match f with
  | .f16 | .bf16 => putField tag 4 k 15
  | .f32 | .f64 => 0xFF
  | _ => countPut f tag k (f.prec code) code

/-! ### Count rules (R116, R117) -/

/-- An operand: its value, its count, and whether it is tracked. -/
structure Opd where
  x : Num
  c : Nat
  tracked : Bool
  full : Bool
  deriving DecidableEq, Repr

/-- Element k of a word of format f as an operand. -/
def opdOf (f : Fmt) (code : Nat) (tag : Byte) (k : Nat) : Opd :=
  let r := countGet f tag k code
  { x := numOf f code, c := r.1, tracked := r.2, full := decide (f.prec code ≤ r.1) }

/-- A full count, before it is clamped to the result's p. -/
def fullCount : Nat := 65536

/-- The multiply rule: a count, clamped by its user. -/
def mulCount (a b : Opd) : Nat :=
  if (a.x.isZero && a.full) || (b.x.isZero && b.full) then fullCount
  else if a.x.isZero || b.x.isZero then 0
  else if a.full || b.full then min a.c b.c else min a.c b.c - 1

/-- The trusted position τ (R112). -/
def tauOf (x : Num) (c : Nat) : Int := x.expo - c + 1

/-- The add rule over any number of terms, for a rounded result r of precision p. A result that underflows to zero from one nonzero
term, every other being an exact zero of full count, has count 0 for every instruction: DESIGN CHOICE (log 126), unsafe, since
R117 is silent and R118 says it of MMA only. -/
def addCount (r : Num) (p : Nat) (terms : List (Num × Nat × Bool)) : Int :=
  if terms.any fun t => t.1.isZero && !t.2.2 then 0
  else match (terms.filter fun t => !t.1.isZero).map fun t => tauOf t.1 t.2.1 with
    | [] => p
    | t :: ts => if r.isNonzero then r.expo - ts.foldl max t + 1 else 0

/-- A count clamped for the code it belongs to (R116): to 0 to p, lower for a subnormal, 0 for a NaN or infinity. -/
def clampCount (f : Fmt) (code : Nat) (c : Int) : Nat :=
  let x := numOf f code
  let p := f.prec code
  match x with
  | .fin _ m _ =>
      let c1 := min c p
      let c2 := if m != 0 && decide (x.expo < f.emin) then min c1 (x.expo - f.emin + p) else c1
      c2.toNat
  | _ => 0

/-! ### One element of an operation -/

/-- The floating-point operations whose operands and result share one format. -/
inductive FOp
  | add | mul | fma | div | min | max
  | fn (g : Fn)
  deriving DecidableEq, Repr

/-- The exact result of an operation on operands that are no NaNs. -/
def FOp.exact (op : FOp) (rd : Bool) (a b c : Num) : Num :=
  match op with
  | .add => a.add rd b
  | .mul => a.mul b
  | .fma => (a.mul b).add rd c
  | .div => a.div b
  | .min => if b.lt true a then b else a
  | .max => if a.lt true b then b else a
  | .fn g => g.apply a

/-- The operands an operation reads, in the order of R105. -/
def FOp.operands (op : FOp) (a b c : Num) : List Num :=
  match op with
  | .fma => [a, b, c]
  | .fn _ => [a]
  | _ => [a, b]

/-- FMIN and FMAX are exact: their result keeps the chosen operand's count unclamped (R114, R167; log 15). -/
def FOp.exactOp : FOp → Bool
  | .min | .max => true
  | _ => false

/-- The count of a result, before it is clamped (R116, R117). -/
def FOp.count (op : FOp) (p : Nat) (a b c : Opd) (r : Num) : Int :=
  match op with
  | .add => addCount r p [(a.x, a.c, a.full), (b.x, b.c, b.full)]
  | .mul | .div => mulCount a b
  | .fma =>
      let m := mulCount a b
      addCount r p [(a.x.mul b.x, Nat.min m p, decide (p ≤ m)), (c.x, c.c, c.full)]
  | .min => if b.x.lt true a.x then b.c else a.c
  | .max => if a.x.lt true b.x then b.c else a.c
  | .fn .rcp => a.c
  | .fn .sqrt => (a.c : Int) + 1
  | .fn _ => (a.c : Int) - 2

/-- Does FMIN or FMAX choose an untracked operand (R167)? -/
def FOp.untracked (op : FOp) (a b : Opd) : Bool :=
  match op with
  | .min => if b.x.lt true a.x then !b.tracked else !a.tracked
  | .max => if a.x.lt true b.x then !b.tracked else !a.tracked
  | _ => false

/-- One element: the result's code, and its count, none where it is untracked. -/
def fpElem (op : FOp) (f : Fmt) (mode : RMode) (sat : Bool) (o : NanSrc) (a b c : Opd) : Nat × Option Nat :=
  match firstNan (op.operands a.x b.x c.x) with
  | some n => (n.nanCode f o, some 0)
  | none =>
    let x := op.exact (mode = .rd) a.x b.x c.x
    if x = .bad then (originNan f o, some 0)
    else
      let r := roundTo f x mode sat 0
      if op.untracked a b then (r.code, none)
      else if op.exactOp then (r.code, some (op.count (f.prec r.code) a b c (numOf f r.code)).toNat)
      else if r.ovf then (r.code, some 0)
      else (r.code, some (clampCount f r.code (op.count (f.prec r.code) a b c (numOf f r.code))))

/-- The tag byte with an element's result count stored. -/
def storeCount (f : Fmt) (tag : Byte) (k code : Nat) (c : Option Nat) : Byte :=
  match c with
  | some n => countPut f tag k n code
  | none => countNone f tag k code

end Sys2Proof.Machine
end

