-- ==== Sys2Proof/Config.lean ====
section
/-! DEFINITION. What an implementation fixes (R2, R10, R12, R249) and the free values: constants with no body, so
that nothing can be proved about a value the spec leaves open. -/

namespace Sys2Proof.Config

/-- Compute dies of a package (R10). -/
def dies : Nat := 8
/-- L2 slices of a die, sets of a slice and ways of a set (R254). -/
def slices : Nat := 96
/-- Sets of a slice (R254). -/
def sets : Nat := 768
/-- Ways of a set (R254). -/
def ways : Nat := 16
/-- L1 ways (R258). -/
def l1Ways : Nat := 8
/-- L1 sets (R258). -/
def l1Sets : Nat := 128
/-- TLB capacity for 64 KiB pages (R376). -/
def tlbSmall : Nat := 1024
/-- TLB capacity for 2 MiB pages (R376). -/
def tlbLarge : Nat := 64
/-- Walks a core has in flight at once (R377). -/
def walks : Nat := 32
/-- Core clocks per microsecond (R447). -/
def clocksPerMicrosecond : Nat := 3600
/-- Tenants (R453). -/
def tenants : Nat := 16

/-! Free values. The argument is the counter `State.free`, read and advanced by the step that uses one. -/

/-- An undefined word: an exposed destination read before it lands (R66, R70), a register of a discarded load (R323). -/
opaque freeWord : Nat → BitVec 32
/-- An undefined tag byte. -/
opaque freeTag : Nat → BitVec 8
/-- An undefined Z register or slice-store bundle. -/
opaque freeWide : Nat → BitVec 512
/-- An undefined X register. -/
opaque freeX : Nat → BitVec 128
/-- An undefined byte of memory: overlapping copies (R352), failed copies (R354), aborted collectives (R367). -/
opaque freeByte : Nat → BitVec 8
/-- An undefined choice among alternatives: which row of a copy wins (R352), how far a failed copy wrote (R354). -/
opaque freeChoice : Nat → Nat
/-- The first word of an instruction that could not be fetched (R436, W6). -/
opaque freeInstrWord : Nat → BitVec 64
/-- The device's identity public key, byte by byte (R461). -/
opaque identityKey : Nat → BitVec 8
/-- The device's serial number, byte by byte (R461). -/
opaque serialNumber : Nat → BitVec 8
/-- The Carralyn public key, byte by byte, whose digest is fused (R460): the spec gives neither. -/
opaque carralynKey : Nat → BitVec 8
/-- The signature over a report's first 196 bytes, byte by byte (R461). -/
opaque reportSignature : List (BitVec 8) → Nat → BitVec 8
/-- The hash of a tackle's list that REFORM carries (R370): the spec names no function. -/
opaque listHash : List Nat → Nat

end Sys2Proof.Config
end

