-- ==== Sys2Proof/Machine/Access.lean ====
section
/-! DEFINITION. Finding the parts of the state; translation and the checks of R251; the L2, L1 and poison tables;
derived regions and recipe records; accesses the device makes for itself. -/

namespace Sys2Proof.Machine

/-! ### Parts of the state -/

/-- The group of a number. -/
def getGroup (s : State) (gid : Nat) : Option Group := s.groups.find? fun g => g.gid == gid

/-- The state with a group replaced. -/
def putGroup (s : State) (g : Group) : State :=
  { s with groups := s.groups.map fun h => if h.gid == g.gid then g else h }

/-- The context of a number. -/
def getCtx (s : State) (c : Nat) : Option Ctx := s.ctxs.find? fun x => x.id == c

/-- The state with a context replaced. -/
def putCtx (s : State) (c : Ctx) : State := { s with ctxs := s.ctxs.map fun x => if x.id == c.id then c else x }

/-- The core of a global number (R13). -/
def getCore (s : State) (n : Nat) : Core := (aget s.cores n).getD {}

/-- The state with a core replaced. -/
def putCore (s : State) (n : Nat) (c : Core) : State := { s with cores := aset s.cores n c }

/-- A tenant's window. -/
def getTenant (s : State) (t : Nat) : Tenant := s.tenants[t]?.getD {}

/-- The state with a tenant's window replaced. -/
def putTenant (s : State) (t : Nat) (x : Tenant) : State := { s with tenants := s.tenants.setIfInBounds t x }

/-- The grid of a number. -/
def getGrid (s : State) (n : Nat) : Option Grid := s.grids.find? fun x => x.id == n

/-- The state with a grid replaced. -/
def putGrid (s : State) (x : Grid) : State := { s with grids := s.grids.map fun y => if y.id == x.id then x else y }

/-- The Capstan of a group replaced. -/
def Group.putCap (g : Group) (c : Capstan) : Group := { g with cap := some c }

/-- A strand of a group replaced. -/
def Group.putStrand (g : Group) (j : Nat) (st : Strand) : Group := { g with strands := g.strands.set j st }

/-- A fresh sequence number. -/
def State.takeSeq (s : State) : Nat × State := (s.nextSeq, { s with nextSeq := s.nextSeq + 1 })

/-! ### Derived regions and recipe records (R263, R396, R397) -/

/-- The region and tile number of an address in a derived region. -/
def regionAt (c : Ctx) (va : Nat) : Option (Region × Nat) :=
  (c.regions.find? fun r => decide (r.base ≤ va) && decide (va < r.base + 4096 * r.ntiles)).map
    fun r => (r, (va - r.base) / 4096)

/-- The address of the first byte of the tile or granule that holds an address. -/
def granule (va : Nat) : Nat := va / 4096 * 4096

/-- Recipe states (R397). -/
def rsAbsent : Nat := 0
/-- PRESENT -/
def rsPresent : Nat := 1
/-- DROPPED -/
def rsDropped : Nat := 2
/-- BUILDING -/
def rsBuilding : Nat := 3
/-- RETIRED -/
def rsRetired : Nat := 4

/-! ### Page walks (R372 to R374) -/

/-- The four levels: number, highest and lowest index bit. -/
def walkTable : List (Nat × Nat × Nat) := [(0, 55, 42), (1, 41, 29), (2, 28, 21), (3, 20, 16)]

/-- The alignment R374 asks of the address a present entry holds. -/
def pteAlign (level : Nat) (leaf : Bool) : Nat :=
  match level with
  | 0 => 65536
  | 1 => 2048
  | 2 => if leaf then 2097152 else 256
  | _ => 65536

/-- A walk over the levels that remain, from a table. A poisoned entry is reported as 16 + its address (R271, R272).
HOST of an entry that names a next table is not looked at: DESIGN CHOICE (log 148), unsafe for such a table, since the spec does not say
whether the walk faults. -/
def walkLevels (m : Memory) (poison : List Nat) (va : Nat) : List (Nat × Nat × Nat) → Nat → WalkResult
  | [], _ => .absent 3 false
  | (lv, hi, lo) :: rest, tbl =>
      let at_ := tbl + 8 * bits va hi lo
      let e := readNat m at_ 8
      let leaf := tbit e 1
      let pa := bits e 47 8 * 256
      if poison.contains (at_ / 128 * 128) then .malformed (16 + at_)
      else if !tbit e 0 then .absent lv (tbit e 5)
      else if bits pa 46 40 != 0 then .malformed 7
      else if tbit e 7 || bits e 55 48 != 0 || bits e 63 60 != 0 then .malformed 8
      else if (lv < 2 && leaf) || (lv == 3 && !leaf) then .malformed 9
      else if pa % pteAlign lv leaf != 0 then .malformed 10
      else if leaf then .leaf pa (lv == 2) (tbit e 2) (tbit e 3) (tbit e 4) (tbit e 6) (bits e 59 56)
      else walkLevels m poison va rest pa

/-- The walk of an address in a context. -/
def walk (s : State) (c : Ctx) (va : Nat) : WalkResult := walkLevels s.mem s.poison va walkTable c.ptroot

/-- The physical address a leaf gives. -/
def leafAddr (base : Nat) (large : Bool) (va : Nat) : Nat := base + va % (if large then 2097152 else 65536)

/-- The home of a physical address (R254). -/
def homeOf (pa : Nat) : Nat × Nat × Nat :=
  let line := bits pa 36 7
  (bits pa 39 37, line % Config.slices, line / Config.slices % Config.sets)

/-- The place of a physical address (R302). -/
def placeOf (pa : Nat) : Place :=
  if tbit pa 47 then .host else let h := homeOf pa; .home h.1 h.2.1

/-! ### The checks of R251 -/

/-- What an access is for: R264 and R373 decide by it. -/
inductive Use
  | load | store | atomic | red | fetch | copySrc (host : Bool) | copyDst (host : Bool) | belay
  deriving DecidableEq, Repr

/-- Does the access write? -/
def Use.writes : Use → Bool
  | .store | .atomic | .red | .copyDst _ => true
  | _ => false

/-- May the access use a page of host memory (R253)? -/
def Use.hostPath : Use → Bool
  | .copySrc h | .copyDst h => h
  | _ => false

/-- The permission a leaf must grant (R373). -/
def Use.permitted (u : Use) (r w x : Bool) : Bool :=
  match u with
  | .load | .copySrc _ | .belay => r
  | .store | .red | .copyDst _ => w
  | .atomic => r && w
  | .fetch => x

/-- Ranks of the steps of R251, 4a to 4c apart; the address and cause of a failure. -/
inductive Verdict
  | ok (pa : Nat) (place : Place)
  | fail (rank cause : Nat) (extra : Word) (addr : Nat)
  | miss (page : Nat)
  deriving DecidableEq, Repr

/-- Is a page absent: the access's own, or that of the recipe record it needs? The device's own agents wait for the pager (R375). -/
def awayRank (rank : Nat) : Bool := rank == 42 || rank == 43 || rank == 44

/-- A PROTECTION failure (R273). -/
def protection (rank reason addr : Nat) : Verdict := .fail rank 0x08 (BitVec.ofNat 32 reason) addr

/-- The extra word of a poisoned line's error: the unit that holds it for the access that finds it, the poison table for a later
one (R270, R272). -/
def poisonExtra (fresh : List (Nat × Nat)) (pa : Nat) : Word :=
  BitVec.ofNat 32 ((aget fresh (pa / 128 * 128)).getD 8 + bits pa 39 37 * 16)

/-- The same for a page-table entry, whose address holds in its low bits the unit that a finished walk has met. -/
def entryExtra (fresh : List (Nat × Nat)) (a : Nat) : Word :=
  if a % 8 = 0 then poisonExtra fresh a else BitVec.ofNat 32 (a % 8 + bits a 39 37 * 16)

/-- Steps 4 to 6 from what the walk found. The DATA_ERROR of a poisoned page-table line has the access's own address, and comes after the
other steps of R251: DESIGN CHOICE (log 149), unsafe for that record, whose address R272 does not settle. -/
def leafVerdict (fresh : List (Nat × Nat)) (c : Ctx) (u : Use) (va : Nat) : WalkResult → Verdict
  | .malformed r => if 16 ≤ r then .fail 70 0x0A (entryExtra fresh (r - 16)) va else protection 41 r va
  | .absent level false => .fail 42 0x07 (BitVec.ofNat 32 level) va
  | .absent level true => .fail 43 0x07 (BitVec.ofNat 32 level) va
  | .leaf base large r w x _ ten =>
      let pa := leafAddr base large va
      if ten ≠ c.tenant || !u.permitted r w x then protection 50 1 va
      else if tbit pa 47 && !u.hostPath then protection 50 5 va
      else if u.writes && c.belay.any (fun e => e.1 == granule va && e.2 != 0) then .fail 60 0x09 0 va
      else .ok pa (placeOf pa)

/-- Step 3 for an address in a derived region, whose record's STATE is given. -/
def derivedVerdict (r : Region) (n : Nat) (state : Nat) (u : Use) (va : Nat) : Verdict :=
  match u with
  | .load | .copySrc _ =>
      if state == rsAbsent || state == rsRetired then protection 30 3 va else .ok va (.derived r.die (n % Config.slices))
  | _ => protection 30 2 va

/-- The address of a tile's recipe record (R396). -/
def recordAddr (r : Region) (n : Nat) : Nat := r.recbase + 64 * n

/-- Is the line of a physical address poisoned (R271)? -/
def isPoisoned (s : State) (pa : Nat) : Bool := s.poison.contains (pa / 128 * 128)

/-- An access has met a poisoned line: later ones find it in the poison table (R270). -/
def meetPoison (s : State) (pa : Nat) : State := { s with fresh := s.fresh.filter fun e => e.1 != pa / 128 * 128 }

/-- The poisoned line that stops an access to a virtual address, its own or that of a page-table entry, has been met. -/
def meetAt (s : State) (c : Ctx) (va : Nat) : State :=
  match walk s c va with
  | .leaf base large _ _ _ _ _ => meetPoison s (leafAddr base large va)
  | .malformed r => if 16 ≤ r then meetPoison s (r - 16) else s
  | .absent _ _ => s

/-- Lines leave the poison table: a write has covered them (R271). -/
def curePoison (s : State) (cured : Nat → Bool) : State :=
  { s with poison := s.poison.filter fun l => !cured l, fresh := s.fresh.filter fun e => !cured e.1 }

/-- The check of a byte that the device reads or writes for itself in plain memory. It keeps its tables outside derived regions:
one that lies in such a region fails at step 3, for a load too (log 138). -/
def sysCheck (s : State) (c : Ctx) (u : Use) (va : Nat) : Verdict :=
  if 2 ^ 56 ≤ va then protection 20 6 va
  else if (regionAt c va).isSome then protection 30 2 va
  else leafVerdict s.fresh c u va (walk s c va)

/-- The physical address of a virtual one, for the device's own reads; none where they may not be made. -/
def sysTrans (s : State) (c : Ctx) (va : Nat) : Option Nat :=
  match sysCheck s c .load va with
  | .ok pa _ => some pa
  | _ => none

/-- The byte that the device has written for itself at an address whose page is absent (R375). -/
def heldByte (s : State) (c : Ctx) (va : Nat) : Option Byte :=
  (s.held.reverse.find? fun e => e.1 == c.id && e.2.1 == va).map (·.2.2)

/-- A byte read by the device for itself: none where it may not be read, or where its line is poisoned (R251, R271). -/
def sysByte (s : State) (c : Ctx) (va : Nat) : Option Byte :=
  (heldByte s c va).or ((sysTrans s c va).bind fun pa => if isPoisoned s pa then none else some (readByte s.mem pa))

/-- n bytes read by the device for itself; zero where it may not read, so that no lost byte passes on as data. -/
def sysBytes (s : State) (c : Ctx) (va n : Nat) : List Byte := (List.range n).map fun k => (sysByte s c (va + k)).getD 0

/-- May the device read n bytes for itself? -/
def sysReads (s : State) (c : Ctx) (va n : Nat) : Bool := (List.range n).all fun k => (sysByte s c (va + k)).isSome

/-- A little-endian number read by the device for itself. -/
def sysNat (s : State) (c : Ctx) (va n : Nat) : Nat := leNat (sysBytes s c va n)

/-- The STATE of a tile's record (R397). -/
def recState (s : State) (c : Ctx) (r : Region) (n : Nat) : Nat := bits (sysNat s c (recordAddr r n) 8) 18 16

/-- May a load or a copy's source use a derived tile (R264)? -/
def Use.readsTile : Use → Bool
  | .load | .copySrc _ => true
  | _ => false

/-- Step 3 with its record: a load waits for the record's page, and takes what else stops the record's read (R375). -/
def recordVerdict (s : State) (c : Ctx) (r : Region) (n : Nat) (u : Use) (va : Nat) : Verdict :=
  if !u.readsTile then derivedVerdict r n rsAbsent u va
  else match sysCheck s c .load (recordAddr r n) with
  | .ok pa _ => if isPoisoned s pa then .fail 30 0x0A (poisonExtra s.fresh pa) va else derivedVerdict r n (recState s c r n) u va
  | .fail rank cause extra a => if awayRank rank then .fail 44 cause extra a else .fail 30 cause extra va
  | .miss p => .miss p

/-- R251 for one address, translating by the function given. -/
def checkWith (s : State) (c : Ctx) (tr : Nat → Option WalkResult) (u : Use) (addr align : Nat) : Verdict :=
  if addr % align ≠ 0 then .fail 10 0x06 0 addr
  else if 2 ^ 56 ≤ addr then protection 20 6 addr
  else match regionAt c addr with
    | some (r, n) => recordVerdict s c r n u addr
    | none => match tr addr with
      | some w => leafVerdict s.fresh c u addr w
      | none => .miss (addr / 65536)

/-- The check of an access the device makes for itself, which walks at once (R375). -/
def checkSys (s : State) (c : Ctx) (u : Use) (addr align : Nat) : Verdict :=
  checkWith s c (fun va => some (walk s c va)) u addr align

/-- The translation a core's TLB holds, or that a finished walk left for the agent (R376, R377). -/
def lookupTlb (co : Core) (c : Nat) (walked : List (Nat × WalkResult)) (va : Nat) : Option WalkResult :=
  match co.tlb.find? fun e => e.ctx == c && match e.leaf with
      | .leaf _ large _ _ _ _ _ => e.base == va / (if large then 2097152 else 65536) * (if large then 2097152 else 65536)
      | _ => false with
  | some e => some e.leaf
  | none => aget walked (va / 65536)

/-- The check of a strand's or Capstan's access. -/
def checkAgent (s : State) (c : Ctx) (core : Nat) (walked : List (Nat × WalkResult)) (u : Use) (addr align : Nat) :
    Verdict :=
  checkWith s c (lookupTlb (getCore s core) c.id walked) u addr align

/-- The check of a shared access (R259). -/
def checkShared (g : Group) (off len align : Nat) : Verdict :=
  if off % align ≠ 0 then .fail 10 0x06 0 off
  else if g.shbytes < off + len then protection 20 4 off
  else .ok off (.shared g.gid)

/-! ### The L2 (R254 to R257, R412) -/

/-- The key of a set. -/
def setKey (die slice set : Nat) : Nat := (die * Config.slices + slice) * Config.sets + set

/-- The slice and set of line m of tile n of a region (R265). -/
def tileLine (n m : Nat) : Nat × Nat := (n % Config.slices, (n / Config.slices * 40 + m) % Config.sets)

/-- A build that has been admitted makes its tile BUILDING (R403). -/
def isBuilding (s : State) (ctx va : Nat) : Bool := s.builds.any fun b => b.ctx == ctx && b.va == va && b.admitted && !b.done

/-- A tile pinned as a source (R403). -/
def isPinned (s : State) (ctx va : Nat) : Bool := s.builds.any fun b => b.ctx == ctx && b.admitted && !b.done && b.pins.contains va

/-- The rule of R257 a line falls under, and the LIVE that ranks it under rule 5 (R412). Rule 0: never chosen. -/
def lineRule (s : State) (newStep newSched : Bool) (l : L2Line) : Nat × Nat :=
  let key := l.tile.getD l.va
  match l.ctx with
  | none => (4, 0)
  | some cid =>
    if l.tile.isSome && (isBuilding s cid key || isPinned s cid key) then (0, 0)
    else match getCtx s cid with
    | none => (4, 0)
    | some c =>
      let step := (if newStep then c.step else c.stepL2).toNat
      match (if newSched then c.sched else c.schedL2).find?
          (fun e => decide (e.base ≤ key) && decide (key < e.base + e.size)) with
      | none => (4, 0)
      | some e =>
        if e.dead < step then (2, 0)
        else if e.cls = 2 && l.tile.isSome then (3, 0)
        else if e.cls = 1 then (6, 0)
        else (5, e.live)

/-- The ways of a set in the order that starts at its rotating pointer. -/
def waysFrom (n p : Nat) : List Nat := (List.range n).map fun k => (p + k) % n

/-- The victim way of a set (R257); the Bool says that the rotating pointer moves past it. -/
def victimWay (s : State) (newStep newSched : Bool) (die slice set : Nat) : Option (Nat × Bool) :=
  let here := s.l2.filter fun l => l.die == die && l.slice == slice && l.set == set
  let order := waysFrom Config.ways ((aget s.l2ptr (setKey die slice set)).getD 0)
  match (List.range Config.ways).find? fun w => !here.any fun l => l.way == w with
  | some w => some (w, false)
  | none =>
    let rule : Nat → Nat × Nat := fun w => match here.find? fun l => l.way == w with
      | some l => lineRule s newStep newSched l
      | none => (0, 0)
    let far := order.foldl (fun m w => if (rule w).1 = 5 then max m (rule w).2 else m) 0
    let pick : Nat → Option Nat := fun r => order.find? fun w => (rule w).1 == r && (r != 5 || (rule w).2 == far)
    match pick 2 with
    | some w => some (w, false)
    | none => match pick 3 with
      | some w => some (w, false)
      | none => match pick 4 with
        | some w => some (w, true)
        | none => match pick 5 with
          | some w => some (w, false)
          | none => (pick 6).map fun w => (w, false)

/-- The line of a physical address held in the L2. -/
def l2Line (s : State) (pa : Nat) : Option L2Line :=
  s.l2.find? fun l => l.tile.isNone && l.pa == pa / 128 * 128

/-- A line held in the L2 becomes dirty: HBM4E's bytes are kept beside it (R256). -/
def dirtyLine (s : State) (pa : Nat) : State :=
  { s with l2 := s.l2.map fun l =>
      if l.tile.isNone && l.pa == pa / 128 * 128 && l.old.isNone then
        { l with old := some (readBytes s.mem (pa / 128 * 128) 128) } else l }

/-- Bytes are written at the home of a physical address: into the line, if the L2 holds it, else into HBM4E. -/
def writeHome (s : State) (pa : Nat) (bs : List Byte) : State :=
  let s1 := dirtyLine s pa
  { s1 with mem := writeBytes s1.mem pa bs }

/-- Bytes written by the device for itself (R395), each by `put` at its physical address. One whose page is absent is held until
the page is there (R375); one that may not be written is not, nor is part of a poisoned line (R251, R271; log 138). -/
def sysPut (put : State → Nat → Nat → Byte → State) (s : State) (c : Ctx) (va : Nat) : List Byte → State
  | [] => s
  | b :: bs => sysPut put (match sysCheck s c .store va with
      | .ok pa _ => if isPoisoned s pa then s else put s va pa b
      | .fail rank _ _ _ => if awayRank rank then { s with held := s.held ++ [(c.id, va, b)] } else s
      | .miss _ => s) c (va + 1) bs

/-- Bytes of a recipe record written in place: into the line, if the L2 holds it, else into HBM4E (log 139). -/
def sysPoke (s : State) (c : Ctx) (va : Nat) (bs : List Byte) : State := sysPut (fun s _ pa b => writeHome s pa [b]) s c va bs

/-- A record's STATE, DEPTH and CHAIN written (R397). -/
def setRecord (s : State) (c : Ctx) (r : Region) (n state depth chain : Nat) : State :=
  let w0 := sysNat s c (recordAddr r n) 8
  let w0' := w0 % 2 ^ 16 + state * 2 ^ 16 + bits w0 23 19 * 2 ^ 19 + depth * 2 ^ 24 + bits w0 63 28 * 2 ^ 28
  let s1 := sysPoke s c (recordAddr r n) (leBytes 8 w0')
  sysPoke s1 c (recordAddr r n + 56) (leBytes 4 chain)

/-- A PRESENT tile is dropped: its lines are gone and its recipe is kept (R267). So is one whose record cannot be read: its record
stays as it is, and a load of it takes the record's error. -/
def dropTile (s : State) (cid va : Nat) : State :=
  match getCtx s cid with
  | none => s
  | some c => match regionAt c va with
    | none => s
    | some (r, n) =>
      if recState s c r n == rsPresent || !sysReads s c (recordAddr r n) 8 then
        let s1 := { s with l2 := s.l2.filter fun l => !(l.ctx == some cid && l.tile == some va),
                           dtiles := s.dtiles.filter fun d => !(d.ctx == cid && d.va == va) }
        if sysReads s c (recordAddr r n) 8 then setRecord s1 c r n rsDropped 0 0 else s1
      else s

/-- A line leaves the L2: a dirty line is written back (R256), a derived line drops its tile (R267). -/
def evict (s : State) (die slice set way : Nat) : State :=
  match s.l2.find? fun l => l.die == die && l.slice == slice && l.set == set && l.way == way with
  | none => s
  | some l => match l.tile with
    | some va => dropTile s (l.ctx.getD 0) va
    | none => { s with l2 := s.l2.filter fun x =>
        !(x.die == die && x.slice == slice && x.set == set && x.way == way) }

/-- A way is made free in a set, or none may be chosen. -/
def freeWay (s : State) (newStep newSched : Bool) (die slice set : Nat) : Option (Nat × State) :=
  (victimWay s newStep newSched die slice set).map fun (w, advance) =>
    let s1 := evict s die slice set w
    (w, if advance then { s1 with l2ptr := aset s1.l2ptr (setKey die slice set) ((w + 1) % Config.ways) } else s1)

/-- A line is brought into its home slice, if it is not there. None: the fill waits (R257). -/
def fillLine (s : State) (ctx : Option Nat) (va pa : Nat) (newStep newSched : Bool) : Option State :=
  if tbit pa 47 || (l2Line s pa).isSome then some s
  else
    let h := homeOf pa
    (freeWay s newStep newSched h.1 h.2.1 h.2.2).map fun (w, s1) =>
      { s1 with l2 := s1.l2 ++ [{ die := h.1, slice := h.2.1, set := h.2.2, way := w, pa := pa / 128 * 128, ctx,
                                  va := va / 128 * 128, tile := none, old := none }] }

/-- Bytes that a unit of the device writes to a line, which is brought into the L2 first (R250, R256). Where no way may be chosen
the bytes go past the L2: DESIGN CHOICE (log 139), unsafe for what the L2 then holds. -/
def writeLine (s : State) (ctx : Option Nat) (va pa : Nat) (bs : List Byte) : State :=
  writeHome ((fillLine s ctx va pa false false).getD s) pa bs

/-- Bytes written by the device for itself, through the L2 (R250, R395). -/
def sysWrite (s : State) (c : Ctx) (va : Nat) (bs : List Byte) : State :=
  sysPut (fun s va pa b => writeLine s (some c.id) va pa [b]) s c va bs

/-- HBM4E's own bytes of an address, past the L2 (R317). -/
def hbmByte (s : State) (pa : Nat) : Byte :=
  match (l2Line s pa).bind fun l => l.old with
  | some bs => bs.getD (pa % 128) 0
  | none => readByte s.mem pa

/-- The L2 lines of the 40 lines of a tile are placed, dropping what they displace. None: some set has no way. -/
def placeTile (s : State) (c : Ctx) (r : Region) (n va : Nat) : Option State :=
  (List.range 40).foldl (fun acc m => acc.bind fun s =>
    let h := tileLine n m
    if s.l2.any fun l => l.ctx == some c.id && l.tile == some va && l.pa == m then some s
    else (freeWay s false false r.die h.1 h.2).map fun (w, s1) =>
      { s1 with l2 := s1.l2 ++ [{ die := r.die, slice := h.1, set := h.2, way := w, pa := m, ctx := some c.id, va,
                                  tile := some va, old := none }] }) (some s)

/-- The byte of a PRESENT derived tile: data bytes 0 to 4,095, tag bytes from 4,096 (R265). -/
def tileByte (s : State) (cid va off : Nat) : Byte :=
  match s.dtiles.find? fun d => d.ctx == cid && d.va == va with
  | some d => readByte d.bytes off
  | none => 0

/-! ### The L1 (R258, R303) -/

/-- The L1 copy of a line. -/
def l1Line (co : Core) (pa : Nat) : Option L1Line := co.l1.find? fun l => l.pa == pa / 128 * 128

/-- A line is filled into the L1 from its home, replacing the way its set's pointer names. -/
def l1Fill (s : State) (core pa : Nat) : State :=
  let co := getCore s core
  let base := pa / 128 * 128
  let set := pa / 128 % Config.l1Sets
  let way := (aget co.l1ptr set).getD 0
  let keep := co.l1.filter fun l => !(l.set == set && l.way == way)
  putCore s core { co with l1 := keep ++ [{ set, way, pa := base, bytes := readBytes s.mem base 128 }],
                           l1ptr := aset co.l1ptr set ((way + 1) % Config.l1Ways) }

/-- A store of the core updates the copy it finds (R258). -/
def l1Update (co : Core) (pa : Nat) (bs : List Byte) : Core :=
  { co with l1 := co.l1.map fun l =>
      if overlaps pa bs.length l.pa 128 then
        { l with bytes := l.bytes.mapIdx fun k b => if pa ≤ l.pa + k ∧ l.pa + k < pa + bs.length then bs.getD (l.pa + k - pa) b else b }
      else l }

/-- The whole L1 is invalidated (R307). -/
def l1Clear (s : State) (core : Nat) : State := putCore s core { getCore s core with l1 := [] }

/-- The L1 lines that overlap a physical range are invalidated. -/
def l1Drop (s : State) (core pa len : Nat) : State :=
  let co := getCore s core
  putCore s core { co with l1 := co.l1.filter fun l => !overlaps pa len l.pa 128 }

/-- The L1 copies of some physical lines are invalidated. -/
def dropLines (s : State) (core : Nat) (lines : List Nat) : State :=
  if lines.isEmpty then s
  else putCore s core { getCore s core with l1 := (getCore s core).l1.filter fun l => !lines.contains l.pa }

/-! ### Interrupts and device events (R456) -/

/-- Where a host address stands in the physical address space (R252, R451). -/
def hostPa (a : Nat) : Nat := 2 ^ 47 + a % 2 ^ 40

/-- The message of a vector: an 8-byte write to IRQADDR, sent on the tenant's port. -/
def sendIrq (s : State) (t v : Nat) : State :=
  let x := getTenant s t
  let w := t * 256 + v
  { s with mem := writeBytes s.mem (hostPa x.irqaddr) (leBytes 8 w), outbox := s.outbox ++ [.irq t x.hport x.irqaddr w] }

/-- A vector of a tenant is raised. -/
def raiseIrq (s : State) (t v : Nat) : State :=
  let x := getTenant s t
  if x.irqpend.getLsbD v then s
  else
    let s1 := putTenant s t { x with irqpend := x.irqpend ||| (1#64 <<< v) }
    if x.irqmask.getLsbD v then s1 else sendIrq s1 t v

/-- A device event of a tenant (R453, R456). -/
def raiseEvent (s : State) (t bit_ : Nat) : State :=
  let x := getTenant s t
  raiseIrq (putTenant s t { x with evtpend := x.evtpend ||| (1#3 <<< bit_) }) t x.evtvec

/-- A device event that a write of the device's own raises: its message is sent after the write has been performed (R456). While the
page of the write is absent the event waits too. -/
def raiseAfter (s : State) (e : HeldEvent) : State :=
  if s.held.any fun h => h.1 == e.ctx && decide (e.va ≤ h.2.1) && decide (h.2.1 < e.va + e.len) then { s with heldEvts := s.heldEvts ++ [e] }
  else raiseEvent s e.tenant e.bit

/-- The events whose writes have been performed are raised. -/
def raiseHeld (s : State) : State := s.heldEvts.foldl raiseAfter { s with heldEvts := [] }

end Sys2Proof.Machine
end

