-- ==== Sys2Proof/Machine/Ops.lean ====
section
/-! DEFINITION. The shared operations: a strand's view of the state, its registers, path counters, cleats, ending a
collective, a group, a chain or a context, taking a trap and returning from one, and the order of checks in which a
strand instruction issues. -/

namespace Sys2Proof.Machine

/-! ### A strand's view -/

/-- The state as the issuing strand sees it: its context, group and own record beside the rest. `put` writes them
back. -/
structure View where
  s : State
  c : Ctx
  g : Group
  j : Nat
  st : Strand
  iw0 : DWord
  iw1 : DWord

/-- The state with the view's context, group and strand in place. -/
def View.put (v : View) : State := putGroup (putCtx v.s v.c) (v.g.putStrand v.j v.st)

/-- The view of strand j of group gid. -/
def viewOf (s : State) (gid j : Nat) (iw0 iw1 : DWord) : Option View :=
  (getGroup s gid).bind fun g => (getCtx s g.ctx).bind fun c => (g.strands[j]?).map fun st =>
    { s, c, g, j, st, iw0, iw1 }

/-- The view of the current strand, if it belongs to a resident group. -/
def curView (s : State) : Option View :=
  match s.cur with
  | some { agent := .strand gid j, iw0, iw1 } =>
      (viewOf s gid j iw0 iw1).bind fun v => if v.g.state = .resident then some v else none
  | _ => none

/-- The view with the strand's PC moved past an instruction of n bytes. -/
def View.advance (v : View) (n : Nat) : View := { v with st := { v.st with pc := v.st.pc + BitVec.ofNat 64 n } }

/-- The agent of a view. -/
def View.agent (v : View) : Agent := .strand v.g.gid v.j

/-! ### Registers -/

/-- The tile mapped at the slot of V register n (R26, R123). -/
def Strand.tileOf (st : Strand) (n : Nat) : Nat := ((st.q[n / 8]?).getD 0).toNat % 512

/-- Is the slot of V register n mapped? -/
def Strand.mapped (st : Strand) (n : Nat) : Bool := ((st.q[n / 8]?).getD 0).getLsbD 15

/-- The key of a word of a tile register in `Group.regs`. -/
def regKey (tile reg lane : Nat) : Nat := tile * 256 + reg * 32 + lane

/-- A word of a tile register and its tag. -/
def tileWord (g : Group) (tile reg lane : Nat) : Word × Byte := tget (0, 0xFF) g.regs (regKey tile reg lane)

/-- A V register's word and tag in a lane (R26). -/
def readV (g : Group) (st : Strand) (n lane : Nat) : Word × Byte := tileWord g (st.tileOf n) (n % 8) lane

/-- A group with one word of a tile written. -/
def Group.writeWord (g : Group) (w : VWrite) : Group :=
  let k := regKey w.tile w.reg w.lane
  { g with regs := tset (0, 0xFF) g.regs k (w.word, w.tag), badWords := g.badWords.filter (· != k) }

/-- A group with words of tiles written, in list order. -/
def Group.writeWords (g : Group) (ws : List VWrite) : Group := ws.foldl Group.writeWord g

/-- A uniform register (R129). -/
def readS (g : Group) (n : Nat) : Word := tget 0 g.sregs n

/-- A pair of uniform registers, the low word first. -/
def readSS (g : Group) (n : Nat) : DWord := readS g (n + 1) ++ readS g n

/-- A group with a uniform register written. -/
def Group.writeS (g : Group) (n : Nat) (w : Word) : Group := { g with sregs := tset 0 g.sregs n w }

/-- A predicate as a mask of lanes; P7 reads true (R126). -/
def Strand.pred (st : Strand) (p : PR) : Word := if h : p.val < 7 then st.p[p.val] else 0xFFFFFFFF

/-- A predicate written in the lanes of a mask; P7 discards (R126). -/
def Strand.setPred (st : Strand) (p : PR) (lanes val : Word) : Strand :=
  if h : p.val < 7 then { st with p := st.p.set p.val ((st.p[p.val] &&& ~~~lanes) ||| (val &&& lanes)) } else st

/-- A predicate written in every lane with EM set. -/
def Strand.setPredEm (st : Strand) (p : PR) (b : Bool) : Strand := st.setPred p st.em (if b then 0xFFFFFFFF else 0)

/-- The lanes in which a guard is true (R53). -/
def Strand.guard (st : Strand) (h : Hd) : Word := if h.neg then ~~~(st.pred h.p) else st.pred h.p

/-- The lanes in which an instruction acts (R53). -/
def Strand.acting (st : Strand) (h : Hd) : Word := st.em &&& st.guard h

/-- Does an instruction that acts once act (R139)? -/
def Strand.actsOnce (st : Strand) (h : Hd) : Bool := (!h.neg && h.p == 7) || st.acting h != 0

/-- A write to EM, ANDed with LIVE (R128). -/
def Strand.setEm (st : Strand) (w : Word) : Strand := { st with em := w &&& st.live }

/-- Strands of a group that have not ended. -/
def Group.liveStrands (g : Group) : Nat := (g.strands.filter fun st => !st.pdone).length

/-! ### Path counters (R417) -/

/-- The value of a path counter. -/
def Group.pathCount (g : Group) (p : Nat) : Nat := ((g.paths[p]?).getD []).length

/-- An operation raises a path counter. What is issued in one clock enters in increasing strand index, the Capstan's last:
`View.canIssue` lets it issue in that order. -/
def Group.pathRaise (g : Group) (p seq : Nat) : Group :=
  { g with paths := g.paths.setIfInBounds p ((g.paths[p]?).getD [] ++ [{ seq }]) }

/-- An operation has completed: the counter falls past every completed operation at its head. -/
def Group.pathLower (g : Group) (p seq : Nat) : Group :=
  let q := ((g.paths[p]?).getD []).map fun o => if o.seq == seq then { o with done := true } else o
  { g with paths := g.paths.setIfInBounds p (q.dropWhile fun o => o.done) }

/-- An operation lowers its group's counter. -/
def lowerPath (s : State) (gid p seq : Nat) : State :=
  match getGroup s gid with
  | some g => putGroup s (g.pathLower p seq)
  | none => s

/-! ### Cleats (R420 to R422) -/

/-- A cleat of a core. -/
def Core.cleat (co : Core) (n : Nat) : Cleat := (aget co.cleats n).getD {}

/-- A core with a cleat replaced. -/
def Core.putCleat (co : Core) (n : Nat) (c : Cleat) : Core := { co with cleats := aset co.cleats n c }

/-- The groups of one gang. -/
def sameGang (a b : Group) : Bool := a.grid == b.grid && a.gangix == b.gangix

/-- A discarded arrival adds 1 to the arriver's LOSTARR, which saturates (R421). -/
def loseArrival (s : State) (gid : Nat) : State :=
  match getGroup s gid with
  | some g => putGroup s { g with lostarr := min 0xFFFF (g.lostarr + 1) }
  | none => s

/-- Event code e of PERFCNT counts one on a core (R432). -/
def perfCount (co : Core) (e n : Nat) : Core :=
  { co with perf := Vector.ofFn fun k =>
      if bits co.perfsel.toNat (8 * k.val + 7) (8 * k.val) = e then co.perf[k] + BitVec.ofNat 64 n else co.perf[k] }

/-- n arrivals of a clock are counted, completing a phase where none has been completed in the clock: together those of one clock
complete at most one (R422; log 154). COUNT has 12 bits (R420; log 111). -/
def Cleat.apply (c : Cleat) (n clock : Nat) : Cleat :=
  let k := c.count + n
  if c.expect ≤ k && 1 ≤ c.expect && c.flippedAt != some clock then
    { c with count := (k - c.expect) % 4096, phase := !c.phase, flippedAt := some clock }
  else { c with count := k % 4096 }

/-- The arrivals a cleat holds are applied in a clock: those from the gang of its owner count where it is armed. The others
are left over (R421, R422; log 154). -/
def Cleat.settle (c : Cleat) (owner : Option Group) (clock : Nat) : Cleat × List Arrival :=
  let ok := fun (a : Arrival) => c.armed && owner.any fun o => o.grid == a.grid && o.gangix == a.gangix
  let got := c.arrivals.filter ok
  let c1 := if c.armed then c.apply (got.foldl (fun k a => k + a.n) 0) clock else c
  ({ c1 with arrivals := [], settledAt := some clock, coll := c.coll || got.any fun a => a.coll
             lines := (c.lines ++ got.flatMap fun a => a.lines).eraseDups }, c.arrivals.filter fun a => !ok a)

/-- Does a cleat have something to apply in this clock: arrivals, or a remainder that completes a phase (R422)? -/
def Cleat.pending (c : Cleat) (clock : Nat) : Bool :=
  !c.arrivals.isEmpty || (c.flippedAt != some clock && c.armed && decide (1 ≤ c.expect) && decide (c.expect ≤ c.count))

/-- Arrivals are discarded: each adds to its group's LOSTARR, and to event 10 of a core (R421, R432). -/
def loseArrivals (s : State) (core : Nat) (l : List Arrival) : State :=
  l.foldl (fun s a => loseArrival s a.gid) (putCore s core (perfCount (getCore s core) 10 l.length))

/-- The arrivals that cleat n of a core holds are applied (R422). -/
def settleCleat (s : State) (core n : Nat) : State :=
  let co := getCore s core
  let c := co.cleat n
  if c.pending s.clock then
    let r := c.settle (c.owner.bind (getGroup s)) s.clock
    loseArrivals (putCore s core (co.putCleat n r.1)) core r.2
  else s

/-- The cleats a saved group took with it: their arrivals are applied to its saved state (R421). The discarded are counted on
the core it left. -/
def settleSaved (s : State) (gid : Nat) : State :=
  match getGroup s gid with
  | none => s
  | some g =>
    if g.savedCleats.any fun e => e.2.pending s.clock then
      let r := g.savedCleats.map fun e => if e.2.pending s.clock then (e.1, e.2.settle (some g) s.clock) else (e.1, e.2, [])
      loseArrivals (putGroup s { g with savedCleats := r.map fun e => (e.1, e.2.1) }) g.core (r.flatMap fun e => e.2.2)
    else s

/-- The group at a gang position of an arriver's gang. -/
def gangMember (s : State) (g : Group) (pos : Nat) : Option Group :=
  s.groups.find? fun x => sameGang x g && x.gangpos == pos

/-- A cleat that an arrival has reached. -/
def Cleat.reach (c : Cleat) (a : Arrival) : Cleat := { c with arrivals := c.arrivals ++ [a] }

/-- An arrival on cleat c of the core at a gang position of the arriver's gang (R421). One addressed to a group that is not
resident reaches its saved state; one addressed to a group that is gone is discarded, and counted on the arriver's core. -/
def arriveWith (s : State) (g : Group) (pos c : Nat) (a : Arrival) : State :=
  match gangMember s g pos with
  | none => loseArrivals s g.core [a]
  | some t =>
    if t.state = .saved then
      match aget t.savedCleats c with
      | some k => putGroup s { t with savedCleats := aset t.savedCleats c (k.reach a) }
      | none => loseArrivals s t.core [a]
    else
      let co := getCore s t.core
      putCore s t.core (co.putCleat c ((co.cleat c).reach a))

/-- An arrival of n that a group makes. -/
def Group.arrival (g : Group) (n : Nat) : Arrival := { n, gid := g.gid, grid := g.grid, gangix := g.gangix }

/-- An arrival of n by group gid. -/
def arriveAt (s : State) (gid pos c n : Nat) : State :=
  match getGroup s gid with
  | some g => arriveWith s g pos c (g.arrival n)
  | none => s

/-! ### Collectives: ending one, ending a generation (R367) -/

/-- The status word of R367. -/
def statusWord (state seq gen crank ecode : Nat) : DWord :=
  BitVec.ofNat 64 (state + seq % 65536 * 2 ^ 8 + gen % 65536 * 2 ^ 24 + crank % 4096 * 2 ^ 40 + ecode % 16 * 2 ^ 52)

/-- The tackle at a position, replaced. -/
def putTackle (s : State) (t : Nat) (x : Tackle) : State := { s with tackles := s.tackles.set t x }

/-- Bytes of an element of a collective (R362). -/
def collSize (f : Fmt) : Nat := if f = .f16 ∨ f = .bf16 then 2 else 4

/-- The bytes a member reads at its source. -/
def collSrcLen (c : Coll) (nmem : Nat) : Nat :=
  let blk := c.count * collSize c.fmt
  match c.kind with
  | .allreduce | .allgather => blk
  | .redscat | .alltoall => nmem * blk
  | .bcast => if c.rank = c.root then blk else 0
  | .barrier => 0

/-- Bytes of a member's destination (R362). -/
def Coll.dstLen (c : Coll) (nmem : Nat) : Nat :=
  let blk := c.count * collSize c.fmt
  match c.kind with
  | .allgather | .alltoall => nmem * blk
  | .barrier => 0
  | _ => blk

/-- What a collective that is not DONE leaves at its destination: a free choice of each byte that may be written holds a free
value, the others what they held (R315, R367). -/
def spoilDst (s : State) (cx : Ctx) (c : Coll) (nmem : Nat) : State :=
  let n := c.dstLen nmem
  (List.range n).foldl (fun t k => match checkSys s cx (.copyDst false) (add64 c.dst k) 1 with
    | .ok pa _ => if isPoisoned s pa || Config.freeChoice (s.free + k) % 2 == 0 then t
                  else writeLine t (some cx.id) (add64 c.dst k) pa [Config.freeByte (s.free + k)]
    | _ => t) { s with free := s.free + n }

/-- Is the page of a collective's status word absent, in a context that has not ended? The engine then waits for the pager
(R367, R375). -/
def statusAway (s : State) (c : Ctx) (co : Coll) : Bool :=
  co.stat != 0 && c.ended.isNone && match checkSys s c .store co.stat 8 with
    | .fail rank _ _ _ => awayRank rank
    | _ => false

/-- A collective of tackle t has ended and waits for the page of its status word. -/
def Tackle.park (x : Tackle) (co : Coll) (fin : Nat × Nat × Nat) : Tackle :=
  { x with pending := x.pending.map fun p => if p.opseq == co.opseq then { p with fin := some (p.fin.getD fin) } else p }

/-- A collective of tackle t completes in a state: a destination that is not DONE is spoilt, its status is recorded and written,
its counter falls, its cleat is arrived on (R315, R367). -/
def completeColl (s : State) (t : Nat) (co : Coll) (state crank ecode : Nat) : State :=
  match s.tackles[t]? with
  | none => s
  | some x =>
    let w := statusWord state co.seq co.gen crank ecode
    let s1 := putTackle s t { x with pending := x.pending.filter fun p => p.opseq != co.opseq,
                                     status := if co.gen = x.gen then aset x.status co.seq w else x.status }
    let s2 := match getCtx s1 x.ctx with
      | some c =>
          let d := if state = 1 then s1 else spoilDst s1 c co x.nmem
          if co.stat = 0 then d else sysWrite d c co.stat (leBytes 8 w.toNat)
      | none => s1
    let s3 := lowerPath s2 co.gid 5 co.opseq
    if co.cle then match getGroup s3 co.gid with
      | some g => arriveWith s3 g g.gangpos co.cleat { g.arrival 1 with coll := true }
      | none => s3
    else s3

/-- A collective ends in a state: it completes once the page of its status word is there. -/
def endColl (s : State) (t : Nat) (co : Coll) (state crank ecode : Nat) : State :=
  match s.tackles[t]? with
  | none => s
  | some x => match getCtx s x.ctx with
    | none => s
    | some c =>
      if statusAway s c co then putTackle s t (x.park co (state, crank, ecode))
      else match co.fin with
        | some (a, b, e) => completeColl s t co a b e
        | none => completeColl s t co state crank ecode

/-- A generation ends: ABORT is sent, and every pending collective completes ABORTED (R367). -/
def endGeneration (s : State) (t crank ecode : Nat) : State :=
  match s.tackles[t]? with
  | none => s
  | some x =>
    let s1 := putTackle s t { x with aborted := true, crank, ecode, forwarded := true }
    let s2 := { s1 with outbox := s1.outbox ++ [.abort x.tkid x.gen crank ecode] }
    x.pending.foldl (fun s co => endColl s t co 2 crank ecode) s2

/-! ### Ending a group and its grid (R27, R330, R421) -/

/-- A group leaves its core: its cleats become unowned and unarmed, its copies are removed from the channels. -/
def clearCore (s : State) (g : Group) : State :=
  let co := getCore s g.core
  putCore s g.core
    { co with cleats := co.cleats.map fun e => if e.2.owner == some g.gid then (e.1, ({} : Cleat)) else e,
              ch0 := co.ch0.filter fun k => k.gid != g.gid, ch1 := co.ch1.filter fun k => k.gid != g.gid }

/-- The context's slice stops being counted when its last resident group leaves (R340). -/
def settleSlice (s : State) (ctx : Nat) : State :=
  match getCtx s ctx with
  | none => s
  | some c => if s.groups.any fun g => g.ctx == ctx && g.state != .saved then s
              else putCtx s { c with sliceStart := none, expired := false }

/-- The arrivals that some cleats of a core hold, which are about to be cleared, are discarded (R421). -/
def dropArrivals (s : State) (core : Nat) (gone : Cleat → Bool) : State :=
  let l := ((getCore s core).cleats.filter fun e => gone e.2).flatMap fun e => e.2.arrivals
  if l.isEmpty then s else loseArrivals s core l

/-- A group ends: everything it held is free, and its grid counts it; the last one sends the grid to its completion
step (R27, R330, R331). A placement pass follows (R338). -/
def endGroup (s : State) (gid : Nat) : State :=
  match getGroup s gid with
  | none => s
  | some g =>
    let s1 := if g.state = .saved then s else clearCore (dropArrivals s g.core fun c => c.owner == some gid) g
    let s2 := { s1 with groups := s1.groups.filter fun x => x.gid != gid }
    let s3 : State := match getGrid s2 g.grid with
      | none => s2
      | some x =>
        let n := x.endedGroups + 1
        let total := bits ((x.words.getD 7 0).toNat) 31 0
        putGrid s2 { x with endedGroups := n, state := if x.state = .placed && n = total then .ending else x.state }
    settleSlice { s3 with agenda := s3.agenda ++ [Act.event .placementPass] } g.ctx

/-! ### Recompute chains (R403 to R406) -/

/-- The extra word of a chain's fault (R406). -/
def chainExtra (reason depth cause : Nat) : Word := BitVec.ofNat 32 (reason % 16 + depth % 16 * 16 + cause % 256 * 256)

/-- What an agent's list of accesses becomes when the chain of a tile has aborted: PREFR counts it as complete. -/
def forgetTile (va : Nat) (l : List Entry) : List Entry :=
  l.map fun e => match e.kind with
    | .prefr b n ts => { e with kind := .prefr b n (ts.filter (· != va)) }
    | _ => e

/-- An error of a part: its cause and extra word. -/
def errCode (cause : Nat) (extra : Word) : Nat := cause + 256 * extra.toNat

/-- The unperformed parts of issued loads that wait on the tile of an aborted chain take its fault. -/
def failParts (va : Nat) (f : Option ChainFault) (l : List Entry) : List Entry :=
  match f with
  | none => l
  | some x => l.map fun e => if !e.isLd then e else { e with parts := e.parts.map fun p => match p.place with
      | .derived .. => if !p.done && granule p.addr == va then { p with done := true, err := errCode x.cause x.extra } else p
      | _ => p }

/-- A strand that waits on a tile of an aborted chain issues again; on the chain's first tile it takes the fault. -/
def Strand.chainAborted (st : Strand) (va : Nat) (f : Option ChainFault) : Strand :=
  let st1 := { st with acc := failParts va f (forgetTile va st.acc) }
  match st.wait with
  | some { kind := .tile w, .. } => if w = va then { st1 with wait := none, chainFault := f } else st1
  | _ => st1

/-- The same for a Capstan. -/
def Capstan.chainAborted (k : Capstan) (va : Nat) (f : Option ChainFault) : Capstan :=
  let k1 := { k with acc := failParts va f (forgetTile va k.acc) }
  match k.pageWait with
  | some (.tile w) => if w = va then { k1 with pageWait := none, chainFault := f } else k1
  | _ => k1

/-- The first byte of the tile at an address that a copy reads, if any (R350, R352). -/
def Copy.readsTile (k : Copy) (va : Nat) : Option Nat :=
  (List.range (max 1 (bits k.shape.toNat 15 0))).findSome? fun r =>
    let a := k.src + r * bits k.shape.toNat 39 16
    if overlaps a k.len va 4096 then some (max a va) else none

/-- The accesses that wait on a tile of an aborted chain are settled (R406). `f` is the fault of the chain's first
tile, which ordinary groups take. -/
def settleWaiters (s : State) (ctx va : Nat) (f : Option ChainFault) : State :=
  let s1 := { s with groups := s.groups.map fun g =>
    if g.ctx != ctx then g else
      let f' := if g.build.isSome then none else f
      let g1 := { g with strands := g.strands.map fun st => st.chainAborted va f',
                         cap := g.cap.map fun k => k.chainAborted va f' }
      if g.future = .tile va then { g1 with ready := g1.ready.or (some s.clock) } else g1 }
  let hit : Copy → Copy := fun k =>
    match getGroup s1 k.gid with
    | some g => if g.ctx == ctx && k.started && k.fail.isNone && !k.sentOut && [0, 1, 5, 6].contains k.path
        then { k with fail := (k.readsTile va).map fun a => (3, 0, a) } else k
    | none => k
  { s1 with cores := s1.cores.map (fun e => (e.1, { e.2 with ch0 := e.2.ch0.map hit, ch1 := e.2.ch1.map hit })),
            tackles := s1.tackles.map fun t => if t.ctx != ctx then t else
              { t with pending := t.pending.map fun p =>
                  if !p.sent && overlaps p.src (collSrcLen p t.nmem) va 4096 then { p with failed := true } else p } }

/-- A chain aborts with a cause (R406): its groups end, its BUILDING tiles return to DROPPED, its pins go, and the
accesses that waited are settled. -/
def abortChain (s : State) (chain cause reason depth ccode : Nat) : State :=
  let mine := s.builds.filter fun b => b.chain == chain
  let s0 := { s with builds := s.builds.filter fun b => b.chain != chain }
  mine.foldl (fun s b =>
    let s1 := match b.gid with
      | some gid => endGroup s gid
      | none => s
    let s1 := { s1 with grids := s1.grids.filter fun x => x.origin != .recompute b.key }
    if b.done then s1
    else
      let s2 := match getCtx s1 b.ctx with
        | some c => match regionAt c b.va with
          | some (r, n) =>
              let s' := { s1 with l2 := s1.l2.filter fun l => !(l.ctx == some b.ctx && l.tile == some b.va),
                                  dtiles := s1.dtiles.filter fun d => !(d.ctx == b.ctx && d.va == b.va) }
              if b.admitted then setRecord s' c r n rsDropped 0 0 else s'
          | none => s1
        | none => s1
      settleWaiters s2 b.ctx b.va (if b.by_.isNone then some { va := b.va, cause, extra := chainExtra reason depth ccode } else none)) s0

/-- The chain of a recompute group aborts. -/
def abortBuild (s : State) (key cause reason ccode : Nat) : State :=
  match s.builds.find? fun b => b.key == key with
  | some b => abortChain s b.chain cause reason b.depth ccode
  | none => s

/-- The chain of a recompute group aborts for a trap of an access of the group: a poisoned line of a source with DATA_ERROR, a load
of an ABSENT or RETIRED tile with reason 6, any other with reason 4 (R272, R404, R405). -/
def abortFor (s : State) (key cause : Nat) (extra : Word) : State :=
  if cause = 0x0A ∧ [1, 2, 8].contains (extra.toNat % 16) then abortBuild s key 0x0A 0 0
  else if cause = 0x08 ∧ extra = 3 then abortBuild s key 0x12 6 0
  else abortBuild s key 0x12 4 cause

/-! ### Ending a context (R444) -/

/-- A strand's trap record in bytes (R436). -/
def TrapRec.bytes (t : TrapRec) (nested : Bool) (strix : Nat) (sem : Word) : List Byte :=
  leBytes 8 (t.cause + t.kind * 256 + b2n t.long * 1024 + b2n nested * 2048 + strix * 65536) ++
  leBytes 8 t.pc.toNat ++ leBytes 8 t.rpc.toNat ++ leBytes 4 t.lanes.toNat ++ leBytes 4 t.extra.toNat ++
  leBytes 8 t.addr.toNat ++ leBytes 8 sem.toNat ++ leBytes 8 t.iw0.toNat ++ leBytes 8 t.iw1.toNat

/-- A context ends with a cause: every group ends, its tackles' generations end, its grids that are not wholly placed
are dropped, and the end is reported (R367, R444, R453). -/
def endContext (s : State) (cid cause : Nat) : State :=
  match getCtx s cid with
  | none => s
  | some c =>
    let s0 := putCtx s { c with ended := some cause }
    let s1 := (List.range s0.tackles.length).foldl (fun s k => match s.tackles[k]? with
      | some x => if x.ctx == cid && !x.aborted then endGeneration s k x.rank 5 else s
      | none => s) s0
    let s2 := (s1.groups.filter fun g => g.ctx == cid).foldl (fun s g => endGroup s g.gid) s1
    let s3 := { s2 with
      builds := s2.builds.filter fun b => b.ctx != cid
      tackles := s2.tackles.map fun x => if x.ctx == cid then { x with gone := true, pending := [], held := [], early := [], reformSince := none } else x
      grids := s2.grids.filter fun x => !(x.ctx == cid && x.state != .ending && x.state != .done && x.state != .refused)
      reservations := s2.reservations.filter fun r => match getGrid s2 r.grid with
        | some x => x.ctx != cid
        | none => false
      cores := s2.cores.map fun e => (e.1, { e.2 with tlb := e.2.tlb.filter fun t => t.ctx != cid }) }
    let x := getTenant s3 c.tenant
    raiseAfter (putTenant s3 c.tenant { x with lastend := BitVec.ofNat 64 (c.ctxid.toNat + cause % 256 * 2 ^ 32),
                                               pgopen := x.pgopen.filter fun p => p.ctx != cid })
      { ctx := cid, va := c.trapvec + 0x40, len := 64, tenant := c.tenant, bit := 2 }

/-- A fatal record is written and the context ends (R444). -/
def fatalEnd (s : State) (c : Ctx) (t : TrapRec) (nested : Bool) (j : Nat) (sem : Word) : State :=
  endContext (sysWrite s c (c.trapvec + 0x40) (t.bytes nested j sem)) c.id t.cause

/-! ### Taking a trap (R440, R441) -/

/-- The device may write n bytes of the context's trap block at an offset. -/
def blockWritable (s : State) (c : Ctx) (off n : Nat) : Bool :=
  (List.range (n / 8)).all fun k => match checkSys s c .store (c.trapvec + off + 8 * k) 1 with
    | .ok pa _ => !isPoisoned s pa
    | _ => false

/-- Handler entry (R440 steps 2 and 3), or the fatal end of R444, which an ENTRY or UNMASK that cannot be read brings too (log 138). -/
def enterTrap (s : State) (gid j : Nat) (r : TrapRec) : State :=
  match viewOf s gid j 0 0 with
  | none => s
  | some v =>
    let t := if r.late then { r with rpc := v.st.pc } else r
    let entry := if sysReads s v.c v.c.trapvec 12 then sysNat s v.c v.c.trapvec 8 else 0
    let unmask := sysNat s v.c (v.c.trapvec + 8) 4
    if v.st.handler.isSome then fatalEnd s v.c t true j v.st.em
    else if entry = 0 || !blockWritable s v.c (0x100 + 64 * j) 64 then fatalEnd s v.c t false j v.st.em
    else
      let at_ := v.c.trapvec + 0x100 + 64 * j
      let s1 := sysWrite s v.c at_ (t.bytes false j v.st.em)
      let s2 := match sysTrans s v.c at_ with
        | some pa => l1Drop s1 v.g.core pa 64
        | none => s1
      let st := { v.st with handler := some { masked := !tbit unmask t.cause, cause := t.cause, kind := t.kind, since := s.clock },
                            em := v.st.live, pc := BitVec.ofNat 64 entry, readyAt := s.clock + 40, trap := none, wait := none }
      putGroup s2 (v.g.putStrand j st)

/-- Every register write of the strand's issued instructions has landed (R440 step 1). -/
def Strand.quiet (st : Strand) : Bool :=
  st.flights.isEmpty && st.acc.all fun e => match e.kind with
    | .load .. | .cas .. | .lookup .. | .rcpq .. => false
    | .atom _ _ _ _ d => d.isNone
    | _ => true

/-- A strand raises a trap. A recompute group's chain aborts instead (R405, R406). The entry waits until the strand's
register writes have landed. -/
def raiseTrap (v : View) (t : TrapRec) : State :=
  match v.g.build with
  | some key => abortFor v.put key t.cause t.extra
  | none => if v.st.quiet then enterTrap v.put v.g.gid v.j t else { v with st := { v.st with trap := some t } }.put

/-- The strand when another trap is taken before one that waits for its results: the instruction issues again after the return, and
raises its trap again. A chain's fault waits for it. -/
def Strand.reissue (st : Strand) (t : TrapRec) : Strand :=
  let fault : ChainFault := { va := granule t.addr.toNat, cause := t.cause, extra := t.extra }
  { st with trap := none, chainFault := if [0x10, 0x11, 0x12].contains t.cause then some fault else st.chainFault }

/-- A trap found after its instruction has issued (R163, R278). It comes before the pending trap of a later instruction, which
issues again. It waits behind a pending one that was found late too, and one whose instruction came before the handler (`before`)
waits for the handler's return (log 44). -/
def deferTrap (v : View) (t : TrapRec) (before : Bool) : State :=
  if v.g.build.isNone && (v.st.trap.any (fun x => x.late) || (before && v.st.handler.isSome)) then
    { v with st := { v.st with later := v.st.later ++ [t] } }.put
  else match v.st.trap with
    | some x => raiseTrap { v with st := v.st.reissue x } t
    | none => raiseTrap v t

/-- A strand whose handler has returned: the next trap that waited for it is pending. -/
def Strand.leaveHandler (st : Strand) : Strand :=
  { st with handler := none, trap := st.trap.or st.later.head?, later := if st.trap.isNone then st.later.tail else st.later }

/-- The record of a trap at the strand's present instruction. -/
def View.trapRec (v : View) (cause : Nat) (len : Nat) (rpc : DWord) (lanes extra : Word) (addr : Nat) : TrapRec :=
  { cause, pc := v.st.pc, rpc, lanes, extra, addr := BitVec.ofNat 64 addr, long := len == 16, iw0 := v.iw0,
    iw1 := if len == 16 then v.iw1 else 0 }

/-- A precise trap that resumes at the instruction. -/
def View.trapAt (v : View) (cause len : Nat) (lanes extra : Word) (addr : Nat) : State :=
  raiseTrap v (v.trapRec cause len v.st.pc lanes extra addr)

/-- A trap that resumes at the next instruction. -/
def View.trapAfter (v : View) (cause len : Nat) (lanes extra : Word) : State :=
  raiseTrap v (v.trapRec cause len (v.st.pc + BitVec.ofNat 64 len) lanes extra 0)

/-- ILLEGAL_OPCODE at the instruction (R56). -/
def View.illegal (v : View) (h : Hd) (len : Nat) : State := v.trapAt 0x01 len (v.st.acting h) 0 0

/-! ### Issue -/

/-- The port classes (R17). -/
inductive Port
  | va | vx | mem | ctl
  deriving DecidableEq, Repr

/-- A port's number within its partition. -/
def Port.ix : Port → Nat
  | .va => 0 | .vx => 1 | .mem => 2 | .ctl => 3

/-- What an instruction needs to issue and is checked for before its own effect: its port and occupancy (R79, R162),
its length, the features that gate it (R86), the V registers it names with their fields (R124), the uniform registers
it reads or writes (R137), the path counter it raises (R417), whether a region or a recompute group forbids it (R322,
R405), whether it issues only when the strand's earlier accesses have been performed, or sent, whether it reads D, which fields R270's check of its sources leaves to its own effect, the predicates it reads or
writes beside its guard (R137), whether it reads or writes EM whatever its guard (all but some of those that act once do), and
whether it acts in lanes (R53) where R405 asks for that. -/
structure Need where
  port : Port
  len : Nat
  occ : Nat := 1
  f64 : Bool := false
  coll : Bool := false
  named : List (Nat × Nat) := []
  sregs : List Nat := []
  path : Option Nat := none
  noRegion : Bool := false
  noRecompute : Bool := false
  drained : Bool := false
  sent : Bool := false
  readsD : Bool := false
  unchecked : List Nat := []
  preds : List PR := []
  em : Bool := true
  perLane : Bool := false
  deriving DecidableEq, Repr

/-- Does an instruction that R405 keeps from recompute groups act: in a lane, or once (R53, R139; log 134)? -/
def Strand.acts (st : Strand) (h : Hd) (n : Need) : Bool := if n.perLane then st.acting h != 0 else st.actsOnce h

/-- The V registers that results or loads in flight will still write. -/
def Strand.busyV (st : Strand) : List (Nat × Nat) :=
  (st.flights.flatMap fun f => f.v.map fun w => (w.tile, w.reg)) ++
  (st.acc.flatMap fun e => match e.kind with
    | .load w _ _ _ d => (List.range (max 1 (w.bytes / 4))).map fun k => ((d + k) / 8, (d + k) % 8)
    | .atom _ _ _ _ (some d) => [(d / 8, d % 8)]
    | .cas _ _ d wide => if wide then [(d / 8, d % 8), ((d + 1) / 8, (d + 1) % 8)] else [(d / 8, d % 8)]
    | .lookup v => v.map fun w => (w.tile, w.reg)
    | .rcpq step d => if step then [(d / 8, d % 8), ((d + 1) / 8, (d + 1) % 8)] else [(d / 8, d % 8)]
    | _ => [])

/-- The uniform registers that results in flight will still write. -/
def Strand.busyS (st : Strand) : List Nat := st.flights.flatMap fun f => f.s.map (·.1)

/-- The predicates that results in flight will still write; P7 is none (R126). -/
def Strand.busyP (st : Strand) : List PR := (st.flights.flatMap fun f => f.p).filter (· != 7)

/-- The strand is interlocked against its own results (R137). A guard reads its predicate, and EM with it. -/
def Strand.interlocked (st : Strand) (h : Hd) (n : Need) : Bool :=
  (n.named.any fun r => st.mapped r.2 && st.busyV.contains (st.tileOf r.2, r.2 % 8)) ||
  (n.sregs.any fun r => st.busyS.contains r) || ((h.p :: n.preds).any fun p => st.busyP.contains p) ||
  ((n.em || h.neg || h.p != 7) && st.flights.any fun f => f.em)

/-- Have the strand's accesses all been sent? MARK, FENCE and a hand-off are none. -/
def Strand.allSent (st : Strand) : Bool := st.acc.all fun e => e.sent || match e.kind with
  | .mark | .fence _ | .handoff _ _ => true
  | _ => false

/-- Does a strand's masked handler delay a stop (R441)? Not a halt that it took a BKPT for, nor one that came with or before the
trap, which is taken at the handler's entry PC (R444, R445). -/
def Strand.delays (st : Strand) (r : StopReq) : Bool :=
  match st.handler with
  | some h => h.masked && !(r.halt && (h.bkpt || (decide (r.since ≤ h.since) && st.issuedAt.all fun t => decide (t ≤ h.since))))
  | none => false

/-- A stop that a masked handler delays has stopped every other strand (R447). -/
def Group.stopping (g : Group) (st : Strand) : Bool := g.stopReq.any fun r => !st.delays r

/-- The key of a strand's port in `Core.busy`. -/
def portKey (st : Strand) (p : Port) : Nat := st.slot / 8 * 4 + p.ix

/-- Has a strand of a higher index issued in this clock? What strands of a group issue in one clock takes effect in increasing
strand index (R131, R341, R417, R428; log 7). -/
def View.overtaken (v : View) : Bool := v.g.strands.zipIdx.any fun x => decide (v.j < x.2) && x.1.issuedAt == some v.s.clock

/-- The handler strand: the lowest that has not ended. -/
def Group.handlerStrand (g : Group) : Option Nat := g.strands.findIdx? fun st => !st.pdone

/-- Is a Capstan trap being delivered to the strand? Unless it is in a handler it issues nothing further (R440, R442). -/
def View.delivering (v : View) : Bool :=
  v.st.handler.isNone && v.g.handlerStrand == some v.j && v.g.cap.any fun k => k.taken.isSome && !k.delivered

/-- May the strand issue at all in this clock (R137, R164, R433, R440)? -/
def View.awake (v : View) : Bool :=
  v.g.state == .resident && !v.st.pdone && v.st.wait.isNone && v.st.trap.isNone && decide (v.st.readyAt ≤ v.s.clock) &&
  !(getCore v.s v.g.core).frozen && !v.g.stopping v.st && (v.st.flights.all fun f => f.chk.isNone) && !v.overtaken && !v.delivering

/-- Has the group's Capstan issued in this clock? Its operations enter the path counters after the strands' (R417). -/
def View.capIssued (v : View) : Bool := v.g.cap.any fun k => k.vcAt == some v.s.clock || k.slotAt == some v.s.clock

/-- May the strand issue an instruction with these needs now (R137, R162, R346, R417)? -/
def View.canIssue (v : View) (h : Hd) (n : Need) : Bool :=
  v.awake && decide ((aget (getCore v.s v.g.core).busy (portKey v.st n.port)).getD 0 ≤ v.s.clock) &&
  !v.st.interlocked h n && (!n.drained || v.st.acc.isEmpty) && (!n.sent || v.st.allSent) &&
  (n.path.all fun p => decide (v.g.pathCount p < 4095) && !v.capIssued)

/-- What issuing draws from the core: the port's occupancy, the current weight (R433) and the event count (R432). The
strand's next instruction issues in a later clock. -/
def View.charge (v : View) (n : Need) : View :=
  let co := getCore v.s v.g.core
  let w := match n.port with
    | .va => 2 | .vx => 0 | .mem => 3 | .ctl => 1
  let co' := { perfCount co 5 1 with weight := co.weight + w,
                                     busy := aset co.busy (portKey v.st n.port) (v.s.clock + n.occ) }
  { v with s := putCore v.s v.g.core co', st := { v.st with readyAt := v.s.clock + 1, issuedAt := some v.s.clock } }

/-- FP64 and collective-engine features (R248). -/
def State.hasFeature (s : State) : Bool := s.variant != .y2s

/-- The first named V register whose slot is not mapped (R124). -/
def Strand.unowned (st : Strand) (named : List (Nat × Nat)) : Option (Nat × Nat) :=
  named.find? fun r => !st.mapped r.2

/-- The lanes among `lanes` in which V register r holds an uncorrectable error. -/
def View.badLanes (v : View) (r : Nat) (lanes : Word) : Word :=
  maskOf fun i => lanes.getLsbD i && v.g.badWords.contains (regKey (v.st.tileOf r) (r % 8) i)

/-- The lanes in which a named source register holds an uncorrectable error, and its tile (R270). SEL reads both its sources in every
acting lane: DESIGN CHOICE (log 146), unsafe where the source it does not choose holds the error. -/
def View.badSource (v : View) (h : Hd) (n : Need) : Option (Word × Nat) :=
  n.named.findSome? fun r =>
    if (r.1 = 0 && !n.readsD) || n.unchecked.contains r.1 then none
    else
      let m := v.badLanes r.2 (v.st.acting h)
      if m = 0 then none else some (m, v.st.tileOf r.2)

/-- The extra word of an uncorrectable error of a tile of a core (R272). -/
def tileErr (core tile : Nat) : Word := BitVec.ofNat 32 (5 + core / 128 % 8 * 16 + tile * 128)

/-- The checks before an instruction's own effect, in order: EMULATE (R56, R86), TILE_NOT_OWNED (R124), REGION_VIOLATION
(R322), RECIPE_VIOLATION (R405), an uncorrectable error of a source register (R270). -/
def View.gate (v : View) (h : Hd) (n : Need) (body : View → State) : State :=
  if (n.f64 || n.coll) && !v.s.hasFeature then v.trapAfter 0x03 n.len (v.st.acting h) 0
  else match v.st.unowned n.named with
    | some (field, r) => v.trapAt 0x04 n.len (v.st.acting h) (BitVec.ofNat 32 (7 + r * 16 + field * 8192)) 0
    | none =>
      if n.noRegion && v.st.active && v.st.handler.isNone then v.trapAt 0x13 n.len (v.st.acting h) 1 0
      else match n.noRecompute && v.st.acts h n, v.g.build with
        | true, some key => abortBuild v.put key 0x12 1 0
        | _, _ => match v.badSource h n with
          | some (lanes, t) => v.trapAt 0x0A n.len lanes (tileErr v.g.core t) 0
          | none => body v

/-- An effect that reads V register r of the strand in some lanes, whichever act: an uncorrectable error there is raised
(R148, R270). -/
def View.reading (v : View) (len r : Nat) (lanes : Word) (body : View → State) : State :=
  let m := v.badLanes r lanes
  if m = 0 then body v else v.trapAt 0x0A len m (tileErr v.g.core (v.st.tileOf r)) 0

/-- A strand instruction: it stops with a fault only where there is no current strand; a strand that may not issue yet
changes nothing. -/
def strandExec (h : Hd) (n : Need) (body : View → State) (s : State) : Host.Outcome State Fault Refusal :=
  match curView s with
  | none => .fault .noCurrentStrand
  | some v => if v.canIssue h n then .next ((v.charge n).gate h n body) else .next s

/-- An instruction that acts once (R139): where it does not act, it only advances. -/
def onceExec (h : Hd) (n : Need) (body : View → State) : State → Host.Outcome State Fault Refusal :=
  strandExec h n fun v => if v.st.actsOnce h then body v else (v.advance n.len).put

/-- A result put in flight: V words and uniform registers that land after the latency (R131, R137). -/
def View.fly (v : View) (lat : Nat) (ws : List VWrite) (ss : List (Nat × Word)) : View :=
  let f : Flight := { seq := v.s.nextSeq, issuedAt := v.s.clock, landAt := v.s.clock + lat, v := ws, s := ss }
  { v with s := { v.s with nextSeq := v.s.nextSeq + 1 }, st := { v.st with flights := v.st.flights ++ [f] } }

/-- Predicates, or EM, that an instruction has written hold back their next reader and writer until its latency has passed
(R137). -/
def View.hold (v : View) (lat : Nat) (p : List PR) (em : Bool) : View :=
  let f : Flight := { seq := v.s.nextSeq, issuedAt := v.s.clock, landAt := v.s.clock + lat, p, em }
  { v with s := { v.s with nextSeq := v.s.nextSeq + 1 }, st := { v.st with flights := v.st.flights ++ [f] } }

/-- The word writes of V register d in the lanes of a mask. -/
def View.vwrites (v : View) (d : Nat) (lanes : Word) (f : Nat → Word × Byte) : List VWrite :=
  (maskLanes lanes).map fun i =>
    let r := f i
    { tile := v.st.tileOf d, reg := d % 8, lane := i, word := r.1, tag := r.2 }

/-! ### Returning from a trap (R444, R438) -/

/-- The Capstan reloads what R438 names from CREG, and will re-enter at a slot. None where CREG breaks R192 or SRESUME exceeds 8. A
CRPC or NPC that is no CPC of R58 is loaded as it is: one that is misaligned raises MISALIGNED at its bundle's fetch, and stray bits
of one with SLC = 1 are ignored: DESIGN CHOICE (log 143), unsafe, since the spec gives no fate to such a word. -/
def Capstan.reload (k : Capstan) (s : State) (c : Ctx) (skip : Bool) : Option Capstan :=
  let rd := fun off n => sysNat s c (c.trapvec + off) n
  let w0 := rd 0x900 8
  let sresume := bits w0 19 16
  let cstat := rd 0x1A90 4
  let mth := bits cstat 12 8
  if 8 < sresume || 24 < mth || bits cstat 7 6 != 0 || bits cstat 31 14 != 0 then none
  else some
    { k with
      a := Vector.ofFn fun n => if n.val = 0 then 0 else BitVec.ofNat 64 (rd (0x1000 + 8 * n.val) 8)
      z := Vector.ofFn fun n => BitVec.ofNat 512 (rd (0x1200 + 64 * n.val) 64)
      x := Vector.ofFn fun n => BitVec.ofNat 128 (rd (0x1A00 + 16 * n.val) 16)
      l := Vector.ofFn fun n => BitVec.ofNat 32 (rd (0x1A80 + 4 * n.val) 4)
      mth
      mse := tbit cstat 13
      cpc := BitVec.ofNat 64 (if skip && sresume = 8 then rd 0x1AE8 8 else rd 0x910 8)
      reenter := if skip && sresume = 8 then none
                 else some (if skip then sresume + 1 else sresume, BitVec.ofNat 64 (rd 0x1AE8 8), skip)
      part := none
      taken := none
      delivered := false }

/-- A handler returns (R444). `skip` is .skip or .emu; `ws` is a list of words that it writes. An RPC that is no multiple of 8 becomes
the PC as it is, and the next fetch raises MISALIGNED: DESIGN CHOICE (log 142), unsafe, since R49 has every PC a multiple of 8 and the
spec gives no fate to such a record. -/
def trapReturn (v : View) (skip : Bool) (ws : List VWrite) : State :=
  let at_ := v.c.trapvec + 0x100 + 64 * v.j
  let w := fun n => sysNat v.s v.c (at_ + 8 * n) 8
  let kind := bits (w 0) 9 8
  let sem := BitVec.ofNat 32 (w 5)
  let next := if skip && kind = 0 then w 1 + (if tbit (w 0) 10 then 16 else 8) else w 2
  let st := { v.st with pc := BitVec.ofNat 64 next, em := sem &&& v.st.live }.leaveHandler
  let g := v.g.writeWords ws
  if kind = 0 then { v with g, st }.put
  else match g.cap with
    | none => { v with g, st }.put
    | some k => match k.reload v.s v.c skip with
      | some k' => { v with g := g.putCap k', st }.put
      | none => fatalEnd v.put v.c (v.trapRec 0x01 8 v.st.pc 0 0 0) true v.j v.st.em

end Sys2Proof.Machine
end

