-- ==== Sys2Proof/Machine/Operands.lean ====
section
/-! DEFINITION. Operands: elements of words (R89, R90), the preparation of B (R50 to R52), reads of V registers and
across lanes (R148), modifiers (R54), predicate combination (R145), and results. -/

namespace Sys2Proof

/-- The V registers B names, with the field number of R124. -/
def BSrc.vs (b : BSrc) (f : Fmt) : List (Nat × Nat) :=
  match b with
  | .v n => if f = .f64 then [(2, n.val), (2, n.val + 1)] else [(2, n.val)]
  | _ => []

/-- The uniform registers B names. -/
def BSrc.ss (b : BSrc) (f : Fmt) : List Nat :=
  match b with
  | .s n => if f = .f64 then [n.val, n.val + 1] else [n.val]
  | _ => []

/-- The instruction's length, from its B operand (R52). -/
def BSrc.len (b : BSrc) : Nat :=
  match b with
  | .imm32 _ => 16
  | _ => 8

/-- The predicate a combination reads (R145). -/
def Comb.reads (c : Comb) : List PR := if c.op = .none then [] else [c.p]

/-- ABS and NA on A (R54). -/
def Mods.onA (m : Mods) (x : Machine.Num) : Machine.Num :=
  let y := if m.abs then x.absolute else x
  if m.na then y.negate else y

/-- ABS and NA on an element of a format: the integer formats and M8 have a single zero, so −0 is +0 (R102; log 109 for
M8). The zero of FP4 is negated to the code 1000, which R93 reads as −0.0: DESIGN CHOICE (log 109), unsafe, since R102 counts FP4 among
the formats with one zero. -/
def Mods.onElem (m : Mods) (f : Fmt) (x : Machine.Num) : Machine.Num :=
  let y := m.onA x
  if y.isZero && (!f.isFloat || f == .m8) then .fin false 0 0 else y

/-- NB on B (R54). -/
def Mods.onB (m : Mods) (x : Machine.Num) : Machine.Num := if m.nb then x.negate else x

end Sys2Proof

namespace Sys2Proof.Machine

/-! ### Elements (R89) -/

/-- Element k of a word. -/
def elemAt (f : Fmt) (w k : Nat) : Nat := w / 2 ^ (f.width * k) % 2 ^ f.width

/-- A word with element k replaced. -/
def setElem (f : Fmt) (w k c : Nat) : Nat :=
  let p := 2 ^ (f.width * k)
  w % p + c % 2 ^ f.width * p + w / (p * 2 ^ f.width) * (p * 2 ^ f.width)

/-- A word built from its elements. -/
def buildWord (f : Fmt) (g : Nat → Nat) : Nat :=
  (List.range f.elems).foldl (fun w k => w + g k % 2 ^ f.width * 2 ^ (f.width * k)) 0

/-- Element k of a word as a signed or unsigned integer (R141). -/
def elemInt (f : Fmt) (w k : Nat) : Int :=
  let c := elemAt f w k
  if f.signed && tbit c (f.width - 1) then (c : Int) - (2 ^ f.width : Nat) else c

/-! ### Reading operands -/

/-- The code of an operand in a lane: a word, or a pair for F64 (R90). `full` marks an immediate, which has full count and is
tracked (R51, R52, R115). -/
structure Src where
  code : Nat
  tag : Byte
  full : Bool := false
  deriving DecidableEq, Repr

/-- V register n, or the pair n, n + 1 under F64, in a lane. -/
def View.srcV (v : View) (f : Fmt) (n lane : Nat) : Src :=
  let r := readV v.g v.st n lane
  if f = .f64 then { code := r.1.toNat + (readV v.g v.st (n + 1) lane).1.toNat * 2 ^ 32, tag := r.2 }
  else { code := r.1.toNat, tag := r.2 }

/-- An element of the code a signed 8-bit immediate stands for (R51). -/
def immElem (f : Fmt) (n : BitVec 8) : Nat :=
  if f.isFloat then (roundTo f (numAt n.toInt 0) .rn false 0).code else intCode f n.toInt

/-- B in a lane under FMT (R50 to R52). A uniform register has no tag (R129): it reads as a word of tag 0xFF, untracked and so
at full count (R114, R147; log 108). -/
def View.srcB (v : View) (f : Fmt) (b : BSrc) (lane : Nat) : Src :=
  match b with
  | .v n => v.srcV f n.val lane
  | .s n => { code := if f = .f64 then (readSS v.g n.val).toNat else (readS v.g n.val).toNat, tag := 0xFF }
  | .imm8 n => { code := if f = .f64 then immElem f n else buildWord f fun _ => immElem f n, tag := 0xFF, full := true }
  | .imm32 w =>
      if f = .f64 then
        { code := match numOf .f32 w.toNat with
            | .nan s _ c => nanTo .f32 c s .f64 ⟨lane, 0, v.st.pc⟩
            | x => (roundTo .f64 x .rn false 0).code
          tag := 0xFF, full := true }
      else { code := w.toNat, tag := 0xFF, full := true }

/-- B of an instruction that acts once: a uniform register or an immediate, as a 32-bit word. -/
def View.wordB (v : View) (b : BSrc) : Word := BitVec.ofNat 32 (v.srcB .b32 b 0).code

/-- A V register in a field of R124, or the pair under F64. -/
def vNames (f : Fmt) (field : Nat) (n : VR) : List (Nat × Nat) :=
  if f = .f64 then [(field, n.val), (field, n.val + 1)] else [(field, n.val)]

/-- Element k of an operand under f as a number with its count. -/
def Src.opd (r : Src) (f : Fmt) (k : Nat) : Opd :=
  let o := opdOf f (if f = .f64 then r.code else elemAt f r.code k) r.tag k
  { o with tracked := o.tracked || r.full }

/-- X of lane j read for another lane or for the strand (R148). -/
def View.crossRead (v : View) (n j : Nat) : Word × Byte :=
  if v.st.live.getLsbD j then readV v.g v.st n j else (0, 0)

/-! ### Predicates -/

/-- A predicate result combined as ISETP does (R145), written in the acting lanes. -/
def View.setComb (v : View) (h : Hd) (pd : PR) (comb : Comb) (t : Nat → Bool) : View :=
  let acting := v.st.acting h
  let tm := maskOf t
  let q := if comb.neg then ~~~(v.st.pred comb.p) else v.st.pred comb.p
  let r := match comb.op with
    | .none => tm
    | .and => tm &&& q
    | .or => tm ||| q
    | .xor => tm ^^^ q
  { v with st := v.st.setPred pd acting r }

/-! ### Results -/

/-- The writes of a result in V register d, or the pair under F64, in the acting lanes: code and tag for each lane. The
high word of a pair has tag 0xFF (R113). -/
def View.resultWrites (v : View) (f : Fmt) (d : Nat) (lanes : Word) (r : Nat → Nat × Byte) : List VWrite :=
  v.vwrites d lanes (fun i => (BitVec.ofNat 32 (r i).1, (r i).2)) ++
  (if f = .f64 then v.vwrites (d + 1) lanes (fun i => (BitVec.ofNat 32 ((r i).1 / 2 ^ 32), 0xFF)) else [])

/-- A result word in V register d of every acting lane with tag 0xFF, and the PC past the instruction. -/
def View.putWords (v : View) (h : Hd) (lat len d : Nat) (r : Nat → Nat) : State :=
  ((v.fly lat (v.resultWrites .b32 d (v.st.acting h) fun i => (r i, 0xFF)) []).advance len).put

/-- Uniform registers written, and the PC past the instruction. -/
def View.putS (v : View) (lat len : Nat) (ss : List (Nat × Word)) : State := ((v.fly lat [] ss).advance len).put

end Sys2Proof.Machine
end

