-- ==== Sys2Proof/Machine/Integer.lean ====
section
/-! DEFINITION. Registers II: integer, logic, move, cross-lane, predicate and uniform instructions (R135 to R156). -/

namespace Sys2Proof.Machine

/-! ### What the three-operand forms share -/

/-- The needs of an instruction with V registers D, A and, if given, C, and a B operand (R136, R137). -/
def needV (port : Port) (f : Fmt) (d : List (Nat × Nat)) (a : List (Nat × Nat)) (b : BSrc) (c : List (Nat × Nat)) : Need :=
  { port, len := b.len, named := d ++ a ++ b.vs f ++ c, sregs := b.ss f }

/-- An integer operation on each element of a word (R141): the exact result clamped under SAT, else taken modulo 2^w. -/
def intWord (f : Fmt) (sat : Bool) (x : Int → Int → Int → Int) (a b c : Nat) : Nat :=
  buildWord f fun k =>
    let r := x (elemInt f a k) (elemInt f b k) (elemInt f c k)
    intCode f (if sat then clampInt f r else r)

/-- An integer instruction of two or three V operands (R140, R141). -/
def intExec (h : Hd) (f : Fmt) (lat : Nat) (sat : Bool) (x : Int → Int → Int → Int) (d a : VR) (b : BSrc) (c : Option VR) :
    State → Host.Outcome State Fault Refusal :=
  strandExec h (needV .va f [(0, d.val)] [(1, a.val)] b ((c.map fun n => (3, n.val)).toList)) fun v =>
    v.putWords h lat b.len d.val fun i =>
      intWord f sat x (v.srcV f a.val i).code (v.srcB f b i).code ((c.map fun n => (v.srcV f n.val i).code).getD 0)

/-- A bit instruction on whole words (R142, R143). -/
def bitExec (h : Hd) (f : Fmt) (x : Nat → Nat → Nat → Nat) (d a : VR) (b : BSrc) (c : Option VR) :
    State → Host.Outcome State Fault Refusal :=
  strandExec h (needV .vx f [(0, d.val)] [(1, a.val)] b ((c.map fun n => (3, n.val)).toList)) fun v =>
    v.putWords h 4 b.len d.val fun i =>
      x (v.srcV f a.val i).code (v.srcB f b i).code ((c.map fun n => (v.srcV f n.val i).code).getD 0) % 2 ^ 32

/-- NOP (R78). -/
def execNop (h : Hd) : State → Host.Outcome State Fault Refusal :=
  strandExec h { port := .ctl, len := 8 } fun v => (v.advance 8).put

/-! ### Arithmetic -/

/-- x or −x. -/
def negIf (n : Bool) (x : Int) : Int := if n then -x else x

/-- IADD (R141). -/
def execIadd (h : Hd) (f : Fmt) (d a : VR) (b : BSrc) (na nb sat : Bool) : State → Host.Outcome State Fault Refusal :=
  intExec h f 4 sat (fun x y _ => negIf na x + negIf nb y) d a b none

/-- ISUB (R141). -/
def execIsub (h : Hd) (f : Fmt) (d a : VR) (b : BSrc) (sat : Bool) : State → Host.Outcome State Fault Refusal :=
  intExec h f 4 sat (fun x y _ => x - y) d a b none

/-- IMUL (R141). -/
def execImul (h : Hd) (f : Fmt) (d a : VR) (b : BSrc) (sat : Bool) : State → Host.Outcome State Fault Refusal :=
  intExec h f 6 sat (fun x y _ => x * y) d a b none

/-- IMULH (R141): the floor of the product over 2^w. -/
def execImulh (h : Hd) (f : Fmt) (d a : VR) (b : BSrc) : State → Host.Outcome State Fault Refusal :=
  intExec h f 6 false (fun x y _ => x * y / (2 ^ f.width : Nat)) d a b none

/-- IMAD (R141). -/
def execImad (h : Hd) (f : Fmt) (d a : VR) (b : BSrc) (c : VR) (sat : Bool) : State → Host.Outcome State Fault Refusal :=
  intExec h f 6 sat (fun x y z => x * y + z) d a b (some c)

/-- IMIN (R141). -/
def execImin (h : Hd) (f : Fmt) (d a : VR) (b : BSrc) : State → Host.Outcome State Fault Refusal :=
  intExec h f 4 false (fun x y _ => min x y) d a b none

/-- IMAX (R141). -/
def execImax (h : Hd) (f : Fmt) (d a : VR) (b : BSrc) : State → Host.Outcome State Fault Refusal :=
  intExec h f 4 false (fun x y _ => max x y) d a b none

/-! ### Bit operations -/

/-- AND (R143). -/
def execBand (h : Hd) (d a : VR) (b : BSrc) : State → Host.Outcome State Fault Refusal :=
  bitExec h .b32 (fun x y _ => x &&& y) d a b none

/-- OR (R143). -/
def execBor (h : Hd) (d a : VR) (b : BSrc) : State → Host.Outcome State Fault Refusal :=
  bitExec h .b32 (fun x y _ => x ||| y) d a b none

/-- XOR (R143). -/
def execBxor (h : Hd) (d a : VR) (b : BSrc) : State → Host.Outcome State Fault Refusal :=
  bitExec h .b32 (fun x y _ => x ^^^ y) d a b none

/-- BLUT's word: bit n is bit A[n] + 2·B[n] + 4·C[n] of the table (R143). -/
def lutWord (tab : BitVec 8) (x y z : Nat) : Nat :=
  (List.range 32).foldl (fun w n =>
    w + b2n (tab.getLsbD (b2n (tbit x n) + 2 * b2n (tbit y n) + 4 * b2n (tbit z n))) * 2 ^ n) 0

/-- BLUT (R143). -/
def execBlut (h : Hd) (d a : VR) (b : BSrc) (c : VR) (tab : BitVec 8) : State → Host.Outcome State Fault Refusal :=
  bitExec h .b32 (lutWord tab) d a b (some c)

/-- A word shifted left by an unsigned amount; 0 from 32 up (R143). -/
def shlWord (x m : Nat) : Nat := if 32 ≤ m then 0 else x * 2 ^ m % 2 ^ 32

/-- A word shifted right by an unsigned amount (R143). -/
def shrWord (x m : Nat) : Nat := if 32 ≤ m then 0 else x / 2 ^ m

/-- A word shifted right with copies of its sign (R143). -/
def sarWord (x m : Nat) : Nat := ((BitVec.ofNat 32 x).sshiftRight (min m 31)).toNat

/-- SHL (R143). -/
def execShl (h : Hd) (d a : VR) (b : BSrc) : State → Host.Outcome State Fault Refusal :=
  bitExec h .b32 (fun x m _ => shlWord x m) d a b none

/-- SHR (R143). -/
def execShr (h : Hd) (d a : VR) (b : BSrc) : State → Host.Outcome State Fault Refusal :=
  bitExec h .b32 (fun x m _ => shrWord x m) d a b none

/-- SAR (R143). -/
def execSar (h : Hd) (d a : VR) (b : BSrc) : State → Host.Outcome State Fault Refusal :=
  bitExec h .b32 (fun x m _ => sarWord x m) d a b none

/-- SHD's word: C:A shifted, its low or high half (R143). -/
def shdWord (left md : Bool) (x y z : Nat) : Nat :=
  let m := if md then y % 32 else min y 32
  let p := z * 2 ^ 32 + x
  if left then p * 2 ^ m % 2 ^ 64 / 2 ^ 32 else p / 2 ^ m

/-- SHD (R143). -/
def execShd (h : Hd) (left md : Bool) (d a : VR) (b : BSrc) (c : VR) : State → Host.Outcome State Fault Refusal :=
  bitExec h .b32 (shdWord left md) d a b (some c)

/-- The number of 1 bits of a word. -/
def popWord (x : Nat) : Nat := ((List.range 32).filter fun n => tbit x n).length

/-- The number of leading zeros of a word; 32 for zero. -/
def clzWord (x : Nat) : Nat := if x = 0 then 32 else 31 - Nat.log2 x

/-- A word with its bits reversed. -/
def revWord (x : Nat) : Nat := (List.range 32).foldl (fun w n => w + b2n (tbit x n) * 2 ^ (31 - n)) 0

/-- POPC (R143). -/
def execPopc (h : Hd) (d a : VR) : State → Host.Outcome State Fault Refusal :=
  bitExec h .b32 (fun x _ _ => popWord x) d a (.imm8 0) none

/-- CLZ (R143). -/
def execClz (h : Hd) (d a : VR) : State → Host.Outcome State Fault Refusal :=
  bitExec h .b32 (fun x _ _ => clzWord x) d a (.imm8 0) none

/-- BREV (R143). -/
def execBrev (h : Hd) (d a : VR) : State → Host.Outcome State Fault Refusal :=
  bitExec h .b32 (fun x _ _ => revWord x) d a (.imm8 0) none

/-- BFE's word (R143): the field of A, whose bits from 32 up read as its sign or as zero, extended from its top bit. -/
def bfeWord (signed : Bool) (x y : Nat) : Nat :=
  let len := min (bits y 15 8) 32
  let v : Int := if signed && tbit x 31 then (x : Int) - (2 ^ 32 : Nat) else x
  let fld := v / (2 ^ (y % 256) : Nat) % (2 ^ len : Nat)
  if len = 0 then 0
  else if signed && decide ((2 ^ (len - 1) : Nat) ≤ fld) then ((fld - (2 ^ len : Nat)) % (2 ^ 32 : Nat)).toNat
  else fld.toNat

/-- BFE (R143). -/
def execBfe (h : Hd) (f : Fmt) (d a : VR) (b : BSrc) : State → Host.Outcome State Fault Refusal :=
  bitExec h f (fun x y _ => bfeWord (f = .i32) x y) d a b none

/-- BFI's word (R143). -/
def bfiWord (x y z : Nat) : Nat :=
  let pos := y % 256
  let mask := (2 ^ min (bits y 15 8) 32 - 1) * 2 ^ pos % 2 ^ 32
  (z - (z &&& mask)) + (x * 2 ^ pos &&& mask)

/-- BFI (R143). -/
def execBfi (h : Hd) (d a : VR) (b : BSrc) (c : VR) : State → Host.Outcome State Fault Refusal :=
  bitExec h .b32 bfiWord d a b (some c)

/-! ### Wide and packed integers (R144, R145) -/

/-- An integer comparison (R144). -/
def Cmp.holdsInt (c : Cmp) (x y : Int) : Bool :=
  match c with
  | .eq => x == y
  | .ne => x != y
  | .lt => decide (x < y)
  | .le => decide (x ≤ y)
  | .gt => decide (y < x)
  | .ge => decide (y ≤ x)
  | .num => true
  | .nan => false

/-- ISETP (R145). -/
def execIsetp (h : Hd) (f : Fmt) (cmp : Cmp) (pd : PR) (a : VR) (b : BSrc) (comb : Comb) :
    State → Host.Outcome State Fault Refusal :=
  strandExec h { needV .va f [] [(1, a.val)] b [] with preds := pd :: comb.reads } fun v =>
    (((v.setComb h pd comb fun i =>
      Cmp.holdsInt cmp (elemInt f (v.srcV f a.val i).code 0) (elemInt f (v.srcB f b i).code 0)).hold 4 [pd] false).advance b.len).put

/-- The 64-bit value of B in IADD64: a pair, or a 32-bit immediate sign-extended as I32 (R145). -/
def View.wide64 (v : View) (b : BSrc) (lane : Nat) : Nat :=
  if b.isImm then sext64 32 (v.srcB .i32 b lane).code else (v.srcB .f64 b lane).code

/-- IADD64 (R145). -/
def execIadd64 (h : Hd) (d a : VR) (b : BSrc) (nb : Bool) : State → Host.Outcome State Fault Refusal :=
  strandExec h (needV .va .f64 (vNames .f64 0 d) (vNames .f64 1 a) b []) fun v =>
    ((v.fly 6 (v.resultWrites .f64 d.val (v.st.acting h) fun i =>
      let y := v.wide64 b i
      (((v.srcV .f64 a.val i).code + (if nb then 2 ^ 64 - y else y)) % 2 ^ 64, 0xFF)) []).advance b.len).put

/-- LEA (R145). -/
def execLea (h : Hd) (u : Bool) (d a : VR) (b : BSrc) (sh : Fin 8) : State → Host.Outcome State Fault Refusal :=
  strandExec h { needV .va .f64 (vNames .f64 0 d) (vNames .f64 1 a) (.imm8 0) [] with
                 named := vNames .f64 0 d ++ vNames .f64 1 a ++ b.vs .i32, sregs := b.ss .i32, len := b.len } fun v =>
    ((v.fly 6 (v.resultWrites .f64 d.val (v.st.acting h) fun i =>
      let y := (v.srcB .i32 b i).code
      let e := if u then y else sext64 32 y
      (((v.srcV .f64 a.val i).code + e * 2 ^ sh.val) % 2 ^ 64, 0xFF)) []).advance b.len).put

/-- IDP4's word (R145). -/
def dpWord (f : Fmt) (mix sat : Bool) (x y z : Nat) : Nat :=
  let fb : Fmt := if mix then (if f = .i8 then .ui8 else .i8) else f
  let r := (List.range 4).foldl (fun (w : Int) k => w + elemInt f x k * elemInt fb y k) (elemInt .i32 z 0)
  intCode .i32 (if sat then clampInt .i32 r else r)

/-- IDP4 (R145). -/
def execIdp4 (h : Hd) (f : Fmt) (mix sat : Bool) (d a : VR) (b : BSrc) (c : VR) : State → Host.Outcome State Fault Refusal :=
  strandExec h (needV .va f [(0, d.val)] [(1, a.val)] b [(3, c.val)]) fun v =>
    v.putWords h 6 b.len d.val fun i =>
      dpWord f mix sat (v.srcV f a.val i).code (v.srcB f b i).code (v.srcV .b32 c.val i).code

/-! ### Moves and selection (R146, R147) -/

/-- A V register, or B, in a lane as it is copied: its words and their tags, low word first. -/
def View.copyV (v : View) (f : Fmt) (n lane : Nat) : List (Word × Byte) :=
  if f = .f64 then [readV v.g v.st n lane, readV v.g v.st (n + 1) lane] else [readV v.g v.st n lane]

/-- B as it is copied (R147). -/
def View.copyB (v : View) (f : Fmt) (b : BSrc) (lane : Nat) : List (Word × Byte) :=
  match b with
  | .v n => v.copyV f n.val lane
  | _ =>
      let c := (v.srcB f b lane).code
      if f = .f64 then [(BitVec.ofNat 32 c, 0xFF), (BitVec.ofNat 32 (c / 2 ^ 32), 0xFF)] else [(BitVec.ofNat 32 c, 0xFF)]

/-- Copies written to D in the acting lanes. -/
def View.putCopies (v : View) (h : Hd) (f : Fmt) (d : VR) (len : Nat) (r : Nat → List (Word × Byte)) : State :=
  let lanes := v.st.acting h
  let one := fun k => v.vwrites (d.val + k) lanes fun i => (r i).getD k (0, 0xFF)
  ((v.fly 4 (one 0 ++ if f = .f64 then one 1 else []) []).advance len).put

/-- MOV (R147). -/
def execMov (h : Hd) (f : Fmt) (d : VR) (b : BSrc) : State → Host.Outcome State Fault Refusal :=
  strandExec h { needV .va f (vNames f 0 d) [] b [] with f64 := f == .f64 } fun v =>
    v.putCopies h f d b.len fun i => v.copyB f b i

/-- SEL (R147). -/
def execSel (h : Hd) (f : Fmt) (d a : VR) (b : BSrc) (pc : PR) (neg : Bool) : State → Host.Outcome State Fault Refusal :=
  strandExec h { needV .va f (vNames f 0 d) (vNames f 1 a) b [] with f64 := f == .f64, preds := [pc] } fun v =>
    v.putCopies h f d b.len fun i =>
      if (v.st.pred pc).getLsbD i != neg then v.copyV f a.val i else v.copyB f b i

/-! ### Cross-lane (R148 to R150) -/

/-- SHFL's source lane, where it is in range (R149). -/
def shflLane (mode : ShflMode) (logw i b : Nat) : Option Nat :=
  let w := 2 ^ logw
  let base := i / w * w
  let j : Int := match mode with
    | .idx => (base : Int) + b
    | .up => (i : Int) - b
    | .down => (i : Int) + b
    | .xor => ((i ^^^ b : Nat) : Int)
  if (base : Int) ≤ j ∧ j < (base : Int) + w then some j.toNat else none

/-- The lane of A that SHFL reads for lane i, where it reads one: an exited lane's register is not read (R148, R149). -/
def View.shflFrom (v : View) (mode : ShflMode) (logw : Nat) (b : BSrc) (i : Nat) : Option Nat :=
  match shflLane mode logw i (v.srcB .b32 b i).code with
  | some j => if v.st.live.getLsbD j then some j else none
  | none => some i

/-- The lanes of A that the acting lanes of a SHFL read. -/
def View.shflReads (v : View) (h : Hd) (mode : ShflMode) (logw : Nat) (b : BSrc) : Word :=
  maskOf fun j => (maskLanes (v.st.acting h)).any fun i => v.shflFrom mode logw b i == some j

/-- SHFL (R149). -/
def execShfl (h : Hd) (mode : ShflMode) (d a : VR) (b : BSrc) (logw : Fin 6) : State → Host.Outcome State Fault Refusal :=
  strandExec h { needV .vx .b32 [(0, d.val)] [(1, a.val)] b [] with unchecked := [1] } fun v =>
    v.reading b.len a.val (v.shflReads h mode logw.val b) fun v =>
      ((v.fly 6 (v.vwrites d.val (v.st.acting h) fun i =>
        match shflLane mode logw.val i (v.srcB .b32 b i).code with
        | some j => v.crossRead a.val j
        | none => readV v.g v.st a.val i) []).advance b.len).put

/-- A predicate operand, negated where its field says so. -/
def Strand.predN (st : Strand) (p : PR) (neg : Bool) : Word := if neg then ~~~(st.pred p) else st.pred p

/-- VOTE (R150). -/
def execVote (h : Hd) (mode : VoteMode) (pd pa : PR) (neg : Bool) : State → Host.Outcome State Fault Refusal :=
  strandExec h { port := .vx, len := 8, preds := [pd, pa] } fun v =>
    let lanes := v.st.acting h
    let t := v.st.predN pa neg &&& lanes
    let r : Bool := match mode with
      | .all => t == lanes
      | .any => t != 0
      | .uni => t == lanes || t == 0
    (({ v with st := v.st.setPred pd lanes (if r then 0xFFFFFFFF else 0) }.hold 6 [pd] false).advance 8).put

/-- BALLOT (R150). -/
def execBallot (h : Hd) (d : VR) (pa : PR) (neg : Bool) : State → Host.Outcome State Fault Refusal :=
  strandExec h { port := .vx, len := 8, named := [(0, d.val)], preds := [pa] } fun v =>
    v.putWords h 6 8 d.val fun _ => (v.st.predN pa neg &&& v.st.acting h).toNat

/-! ### Strand-wide reads and writes (R151 to R153) -/

/-- The value RDSPEC reads (R151). -/
def View.special (v : View) (name : Spec) (lane : Nat) : Nat :=
  match name with
  | .lane => lane
  | .strandix => v.j
  | .role => v.st.role
  | .threadix => 32 * v.j + lane
  | .roleix => v.j - v.g.strands.findIdx fun x => x.role == v.st.role
  | .coreslot => v.st.slot
  | .partition => v.st.slot / 8
  | .vcyclo => v.g.vcyc % 2 ^ 32
  | .vcychi => v.g.vcyc / 2 ^ 32 % 2 ^ 32
  | .ntiles => (v.st.q.toList.filter fun q => q.getLsbD 15).length

/-- RDSPEC (R151). -/
def execRdspec (h : Hd) (d : VR) (name : Spec) : State → Host.Outcome State Fault Refusal :=
  strandExec h { port := .ctl, len := 8, named := [(0, d.val)] } fun v =>
    v.putWords h 2 8 d.val fun i => v.special name i

/-- EMRD (R152). -/
def execEmrd (h : Hd) (live : Bool) (sd : SR) : State → Host.Outcome State Fault Refusal :=
  onceExec h { port := .ctl, len := 8, sregs := [sd.val], em := !live } fun v =>
    v.putS 2 8 [(sd.val, if live then v.st.live else v.st.em)]

/-- EM written, for a reader 2 clocks later (R137 for EMWR; log 31 for EMPUSH, EMFLIP and EMPOP). -/
def View.putEm (v : View) (w : Word) : View := ({ v with st := v.st.setEm w } : View).hold 2 [] true

/-- EMWR (R152). -/
def execEmwr (h : Hd) (b : BSrc) : State → Host.Outcome State Fault Refusal :=
  onceExec h { port := .ctl, len := b.len, sregs := b.ss .b32 } fun v =>
    ((v.putEm (v.wordB b)).advance b.len).put

/-- P0 to P6 of a lane in bits 6:0, and 1 in bit 7 (R153). -/
def Strand.packPreds (st : Strand) (lane : Nat) : Nat :=
  (List.range 7).foldl (fun w k => w + b2n (((st.p[k]?).getD 0).getLsbD lane) * 2 ^ k) 128

/-- The predicates PRMOV.unpack writes under a mask. -/
def unpacked (mask : Word) : List PR := ([0, 1, 2, 3, 4, 5, 6] : List PR).filter fun p => mask.getLsbD p.val

/-- The predicates PRMOV.unpack may write: those of an immediate mask, else all. -/
def BSrc.unpacks (m : BSrc) : List PR :=
  match m with
  | .imm8 n => unpacked (n.signExtend 32)
  | .imm32 w => unpacked w
  | _ => [0, 1, 2, 3, 4, 5, 6]

/-- PRMOV (R153). -/
def execPrmov (h : Hd) (op : PrOp) : State → Host.Outcome State Fault Refusal :=
  match op with
  | .pack d => strandExec h { port := .ctl, len := 8, named := [(0, d.val)], preds := [0, 1, 2, 3, 4, 5, 6] } fun v =>
      v.putWords h 2 8 d.val fun i => v.st.packPreds i
  | .unpack a m =>
    strandExec h { port := .ctl, len := m.len, named := [(1, a.val)], sregs := m.ss .b32, preds := BSrc.unpacks m } fun v =>
      let lanes := v.st.acting h
      let mask := v.wordB m
      let p := Vector.ofFn fun k : Fin 7 =>
        let old := v.st.p[k]
        if mask.getLsbD k.val then
          (old &&& ~~~lanes) ||| (lanes &&& maskOf fun i => (readV v.g v.st a.val i).1.getLsbD k.val)
        else old
      (({ v with st := { v.st with p } }.hold 2 (unpacked mask) false).advance m.len).put
  | .copy pd pa neg => strandExec h { port := .ctl, len := 8, preds := [pd, pa] } fun v =>
      (({ v with st := v.st.setPred pd (v.st.acting h) (v.st.predN pa neg) }.hold 2 [pd] false).advance 8).put

/-! ### Uniform registers (R154, R155) -/

/-- UALU's result word (R154). -/
def ualuWord (f : Fmt) (op : UOp) (sat : Bool) (pc : DWord) (a b : Nat) : Nat :=
  let o : NanSrc := ⟨0, 0, pc⟩
  let fop : FOp → Nat := fun x => (fpElem x .f32 .rn false o (opdOf .f32 a 0xFF 0) (opdOf .f32 b 0xFF 0) (opdOf .f32 0 0xFF 0)).1
  let neg : Nat := b ^^^ 2 ^ 31
  let int : Int → Nat := fun r => intCode f (if sat then clampInt f r else r)
  let x := elemInt f a 0
  let y := elemInt f b 0
  match op with
  | .add => if f = .f32 then fop .add else int (x + y)
  | .sub => if f = .f32 then
      (match firstNan [numOf .f32 a, numOf .f32 b] with
       | some n => n.nanCode .f32 o
       | none => (fpElem .add .f32 .rn false o (opdOf .f32 a 0xFF 0) (opdOf .f32 neg 0xFF 0) (opdOf .f32 0 0xFF 0)).1)
      else int (x - y)
  | .mul => if f = .f32 then fop .mul else int (x * y)
  | .min => if f = .f32 then fop .min else int (min x y)
  | .max => if f = .f32 then fop .max else int (max x y)
  | .and => a &&& b
  | .or => a ||| b
  | .xor => a ^^^ b
  | .shl => shlWord a b
  | .shr => shrWord a b
  | .sar => sarWord a b

/-- UALU (R154). -/
def execUalu (h : Hd) (f : Fmt) (op : UOp) (sat : Bool) (sd sa : SR) (b : BSrc) : State → Host.Outcome State Fault Refusal :=
  onceExec h { port := .ctl, len := b.len, sregs := [sd.val, sa.val] ++ b.ss f, em := false } fun v =>
    v.putS (if f = .f32 then 4 else 2) b.len
      [(sd.val, BitVec.ofNat 32 (ualuWord f op sat v.st.pc (readS v.g sa.val).toNat (v.srcB f b 0).code))]

/-- UMOV (R155): B, or lane B[4:0] of V register A read across lanes. -/
def execUmov (h : Hd) (sd : SR) (a : Option VR) (b : BSrc) : State → Host.Outcome State Fault Refusal :=
  onceExec h { port := .ctl, len := b.len, named := (a.map fun n => (1, n.val)).toList, unchecked := [1], em := false,
               sregs := sd.val :: b.ss .b32 } fun v =>
    match a with
    | none => v.putS 2 b.len [(sd.val, v.wordB b)]
    | some n =>
      let j := (v.wordB b).toNat % 32
      v.reading b.len n.val (v.st.live &&& (1#32 <<< j)) fun v => v.putS 2 b.len [(sd.val, (v.crossRead n.val j).1)]

end Sys2Proof.Machine
end

