-- ==== Sys2Proof/Machine/KvTab.lean ====
section
/-! DEFINITION. The tables of the KV cache in a tenant's memory (R381 to R387): handles, sequence maps, the frame table
and its free list, and the lookup. Each operation here is one step at the home of the handle-table entry (R386). The
tables lie at virtual addresses of the context (log 16). -/

namespace Sys2Proof.Machine

/-- A KV register of a context's tenant, in the order of R382. -/
def kvReg (s : State) (c : Ctx) (ix : Nat) : Nat := (((getTenant s c.tenant).kv[ix]?).getD 0).toNat

/-- HTBASE -/
def kvHtbase (s : State) (c : Ctx) : Nat := kvReg s c 0
/-- HTCOUNT -/
def kvHtcount (s : State) (c : Ctx) : Nat := bits (kvReg s c 1) 24 0
/-- FTBASE -/
def kvFtbase (s : State) (c : Ctx) : Nat := kvReg s c 2
/-- FTCOUNT -/
def kvFtcount (s : State) (c : Ctx) : Nat := bits (kvReg s c 3) 30 0
/-- FPBASE -/
def kvFpbase (s : State) (c : Ctx) : Nat := kvReg s c 4
/-- FRAMESZ -/
def kvFramesz (s : State) (c : Ctx) : Nat := bits (kvReg s c 5) 4 0
/-- FREEHEAD -/
def kvFreehead (s : State) (c : Ctx) : Nat := bits (kvReg s c 6) 30 0

/-- FREEHEAD replaced by the device. -/
def setFreehead (s : State) (c : Ctx) (f : Nat) : State :=
  let t := getTenant s c.tenant
  putTenant s c.tenant { t with kv := t.kv.set 6 (BitVec.ofNat 64 f) }

/-- No frame (R382). -/
def noFrame : Nat := 0x7FFFFFFF

/-! ### Handles and entries (R381, R383) -/

/-- A handle-table entry: its address and its fields. -/
structure HEntry where
  at_ : Nat
  smap : Nat
  w1 : Nat
  len : Nat
  stride : Nat
  deriving DecidableEq, Repr

/-- CAPP -/
def HEntry.capp (e : HEntry) : Nat := bits e.w1 23 0
/-- GEN -/
def HEntry.gen (e : HEntry) : Nat := bits e.w1 35 24
/-- LIVE -/
def HEntry.live (e : HEntry) : Bool := tbit e.w1 36
/-- Pages of the sequence: ceil(LEN / 16). -/
def HEntry.pages (e : HEntry) : Nat := (e.len + 15) / 16

/-- The entry of an index. -/
def readHEntry (s : State) (c : Ctx) (ix : Nat) : HEntry :=
  let a := add64 (kvHtbase s c) (32 * ix)
  { at_ := a, smap := sysNat s c a 8, w1 := sysNat s c (a + 8) 8, len := sysNat s c (a + 16) 4,
    stride := sysNat s c (a + 20) 4 }

/-- INDEX of a handle. -/
def handleIndex (h : Nat) : Nat := bits h 43 20
/-- BOUND of a handle. -/
def handleBound (h : Nat) : Nat := bits h 19 0

/-- A failed lookup: its step in R385, its cause and its reason. -/
structure KvFault where
  rank : Nat
  cause : Nat
  reason : Nat
  deriving DecidableEq, Repr

/-- The address of the handle-table entry of a handle. -/
def handleAt (s : State) (c : Ctx) (h : Nat) : Nat := add64 (kvHtbase s c) (32 * handleIndex h)

/-- The first access of a list to the tables that R251 does not allow, or that meets a poisoned line (R251, R271). An element of a
table lies in one line (R382 to R384). -/
def tableFault (s : State) (c : Ctx) (l : List (Use × Nat)) : Option Verdict :=
  l.findSome? fun e => match sysCheck s c e.1 e.2 with
    | .ok pa _ => if isPoisoned s pa then some (.fail 70 0x0A (poisonExtra s.fresh pa) e.2) else none
    | r => some r

/-- What stops the read of the handle-table entry that steps 1 and 2 of R385 let a handle name. -/
def entryFault (s : State) (c : Ctx) (h : Nat) : Option Verdict :=
  if bits h 63 56 ≠ c.tenant ∨ kvHtcount s c ≤ handleIndex h then none else tableFault s c [(.load, handleAt s c h)]

/-- Steps 1 to 3 of R385: the entry, or the fault. -/
def checkHandle (s : State) (c : Ctx) (h : Nat) : Except KvFault HEntry :=
  if bits h 63 56 ≠ c.tenant then .error ⟨1, 0x0D, 1⟩
  else if kvHtcount s c ≤ handleIndex h then .error ⟨2, 0x0D, 2⟩
  else
    let e := readHEntry s c (handleIndex h)
    if !e.live || e.gen ≠ bits h 55 44 then .error ⟨3, 0x0D, 3⟩ else .ok e

/-! ### Maps and frames (R384) -/

/-- The address of map word p. -/
def HEntry.wordAt (e : HEntry) (p : Nat) : Nat := add64 e.smap (4 * p)

/-- Map word p. -/
def mapWordAt (s : State) (c : Ctx) (e : HEntry) (p : Nat) : Nat := sysNat s c (e.wordAt p) 4

/-- Map word p replaced. -/
def setMapWord (s : State) (c : Ctx) (e : HEntry) (p w : Nat) : State := sysWrite s c (e.wordAt p) (leBytes 4 w)

/-- ABS of a map word. -/
def absentWord (w : Nat) : Bool := tbit w 31

/-- The frame a map word names in the frame table, if it does. -/
def wordFrame (s : State) (c : Ctx) (w : Nat) : Option Nat :=
  if !absentWord w && decide (w < kvFtcount s c) then some w else none

/-- Address of a frame-table entry. -/
def frameAt (s : State) (c : Ctx) (f : Nat) : Nat := add64 (kvFtbase s c) (8 * f)

/-- A frame-table entry. -/
def readFrame (s : State) (c : Ctx) (f : Nat) : Nat := sysNat s c (frameAt s c f) 8

/-- REF -/
def frameRef (w : Nat) : Nat := bits w 15 0
/-- FILL -/
def frameFill (w : Nat) : Nat := bits w 20 16
/-- FREE -/
def frameFree (w : Nat) : Bool := tbit w 21
/-- NEXT -/
def frameNext (w : Nat) : Nat := bits w 62 32

/-- A frame-table entry written. -/
def writeFrame (s : State) (c : Ctx) (f ref fill : Nat) (free : Bool) (next : Nat) : State :=
  sysWrite s c (frameAt s c f) (leBytes 8 (ref + fill * 2 ^ 16 + b2n free * 2 ^ 21 + next * 2 ^ 32))

/-- REF replaced. -/
def setRef (s : State) (c : Ctx) (f ref : Nat) : State :=
  let w := readFrame s c f
  writeFrame s c f ref (frameFill w) (frameFree w) (frameNext w)

/-- FILL replaced. -/
def setFill (s : State) (c : Ctx) (f fill : Nat) : State :=
  let w := readFrame s c f
  writeFrame s c f (frameRef w) fill (frameFree w) (frameNext w)

/-- A frame popped from the free list with REF 1 and a FILL, if there is one (R384). -/
def popFrame (s : State) (c : Ctx) (fill : Nat) : Option (Nat × State) :=
  let f := kvFreehead s c
  if f = noFrame || decide (kvFtcount s c ≤ f) then none
  else
    let n := frameNext (readFrame s c f)
    some (f, setFreehead (writeFrame s c f 1 fill false n) c n)

/-- A frame pushed onto the free list. -/
def pushFrame (s : State) (c : Ctx) (f : Nat) : State :=
  let w := readFrame s c f
  setFreehead (writeFrame s c f (frameRef w) (frameFill w) true (kvFreehead s c)) c f

/-- Has a lookup read a map word naming the frame and not returned (R387)? -/
def frameInUse (s : State) (tenant f : Nat) : Bool :=
  s.groups.any fun g => (match getCtx s g.ctx with
      | some c => c.tenant == tenant
      | none => false) &&
    g.strands.any fun st => st.acc.any fun e => e.frames.contains f

/-- A frame whose REF has fallen to 0 goes to the free list, or is held back (R387). -/
def freeFrame (s : State) (c : Ctx) (f : Nat) : State :=
  let s1 := writeFrame s c f 0 0 true (frameNext (readFrame s c f))
  if frameInUse s1 c.tenant f then
    let t := getTenant s1 c.tenant
    putTenant s1 c.tenant { t with heldFrames := t.heldFrames ++ [f] }
  else pushFrame s1 c f

/-- Frames held back whose lookups have returned are pushed (R387). -/
def settleFrames (s : State) (c : Ctx) : State :=
  let t := getTenant s c.tenant
  let go := t.heldFrames.filter fun f => !frameInUse s c.tenant f
  go.foldl (fun s f => pushFrame s c f)
    (putTenant s c.tenant { t with heldFrames := t.heldFrames.filter fun f => !go.contains f })

/-- REF of a frame falls by n; at 0 the frame is freed. -/
def lowerRef (s : State) (c : Ctx) (f n : Nat) : State :=
  let r := frameRef (readFrame s c f)
  if n = 0 then s
  else if r ≤ n then freeFrame s c f
  else setRef s c f (r - n)

/-- The frame an old map word named is released (R393). -/
def releaseWord (s : State) (c : Ctx) (w : Nat) : State :=
  match wordFrame s c w with
  | some f => lowerRef s c f 1
  | none => s

/-- The row address of a position in a frame (R385 step 8). -/
def rowAddr (s : State) (c : Ctx) (e : HEntry) (f pos : Nat) : Nat :=
  (kvFpbase s c + f * 2 ^ kvFramesz s c + pos % 16 * e.stride) % 2 ^ 64

/-- What a lookup answers; `blocked` is a check of R251 that its reads of the tables fail. -/
inductive Lookup
  | row (addr frame : Nat)
  | fault (f : KvFault)
  | blocked (rank cause : Nat) (extra : Word) (addr : Nat)
  | absent (page : Nat)
  deriving DecidableEq, Repr

/-- A failed check as a lookup's answer. -/
def Verdict.blocked (r : Verdict) : Lookup :=
  match r with
  | .fail rank cause extra a => .blocked rank cause extra a
  | .ok _ _ | .miss _ => .blocked 43 0x07 0 0

/-- The lookup of a handle at a position for a read (R385). -/
def kvLookup (s : State) (c : Ctx) (h pos : Nat) : Lookup :=
  match entryFault s c h, checkHandle s c h with
  | some r, _ => r.blocked
  | none, .error f => .fault f
  | none, .ok e =>
    let p := pos / 16
    if handleBound h ≤ p || e.capp ≤ p then .fault ⟨4, 0x0E, 1⟩
    else if e.len ≤ pos then .fault ⟨5, 0x0E, 2⟩
    else match tableFault s c [(.load, e.wordAt p)] with
    | some r => r.blocked
    | none =>
      let w := mapWordAt s c e p
      if absentWord w then .absent p
      else if kvFtcount s c ≤ w then .fault ⟨6, 0x0D, 4⟩
      else .row (rowAddr s c e w pos) w

end Sys2Proof.Machine
end

