-- ==== Sys2Proof/Machine/Splice.lean ====
section
/-! DEFINITION. What an access does that meets a derived tile which is not PRESENT: starting builds, links and cycles
(R399, R403, R404), and the sources a recompute group may read (R405). -/

namespace Sys2Proof.Machine

/-- The build of a tile that still runs or waits. -/
def buildOf (s : State) (ctx va : Nat) : Option Build := s.builds.find? fun b => b.ctx == ctx && b.va == va && !b.done

/-- The build of a recompute group. -/
def buildByKey (s : State) (key : Nat) : Option Build := s.builds.find? fun b => b.key == key

/-- Does a tile lead, by the links of BUILDING tiles, to the tile `own` (R404)? The fuel bounds the walk by the builds
there are. -/
def leadsTo (s : State) (ctx own : Nat) : Nat → Nat → Bool
  | 0, _ => false
  | n + 1, va => va == own || match buildOf s ctx va with
    | some b => b.links.any fun l => leadsTo s ctx own n l
    | none => false

/-- A build of a DROPPED tile is started for an access of an ordinary group, or of recompute group `by_` (R403 steps 1
and 2). A tile whose build has started already is left as it is. -/
def startBuild (s : State) (c : Ctx) (va : Nat) (by_ : Option Nat) : State :=
  if (buildOf s c.id va).isSome then s
  else
    let parent := by_.bind (buildByKey s)
    let depth := match parent with
      | some b => b.depth + 1
      | none => 1
    if c.rcpdepth < depth then
      match parent with
      | some b => abortChain s b.chain 0x10 0 b.depth 0
      | none => s
    else
      let chain := match parent with
        | some b => b.chain
        | none => s.nextChain
      let b : Build := { key := s.nextSeq, ctx := c.id, va, chain, depth, by_ }
      { s with builds := s.builds ++ [b], nextSeq := s.nextSeq + 1,
               nextChain := if parent.isSome then s.nextChain else s.nextChain + 1 }

/-- A link of a recompute group's build to a tile its load waits on. -/
def addLink (s : State) (key va : Nat) : State :=
  { s with builds := s.builds.map fun b => if b.key == key && !b.links.contains va then { b with links := va :: b.links } else b }

/-- An access meets a tile that is DROPPED or BUILDING (R266, R403, R404). -/
def meetTile (s : State) (c : Ctx) (by_ : Option Nat) (va : Nat) : State :=
  match by_.bind (buildByKey s) with
  | some own =>
      if isBuilding s c.id va && leadsTo s c.id own.va (s.builds.length + 1) va then abortChain s own.chain 0x11 0 own.depth 0
      else addLink (startBuild s c va by_) own.key va
  | none => startBuild s c va none

/-- The tile at an address that is not ready to be read, if any. -/
def tileUnready (s : State) (c : Ctx) (va : Nat) : Option Nat :=
  match regionAt c va with
  | some (r, n) => let st := recState s c r n
                   if st == rsDropped || st == rsBuilding then some (granule va) else none
  | none => none

/-- The sources of a record as KIND and address (R397). -/
def recordSources (s : State) (c : Ctx) (at_ : Nat) : List (Bool × Nat) :=
  (List.range (min 4 (bits (sysNat s c at_ 8) 22 20))).map fun k =>
    let w := sysNat s c (at_ + 24 + 8 * k) 8
    (tbit w 0, bits w 55 12 * 4096)

/-- Does the recipe of a build name the derived tile at an address? -/
def namesSource (s : State) (b : Build) (va : Nat) : Bool :=
  match getCtx s b.ctx with
  | none => false
  | some c => match regionAt c b.va with
    | some (r, n) => (recordSources s c (recordAddr r n)).any fun x => !x.1 && x.2 == va
    | none => false

/-- A tile becomes PRESENT: the links to it go, a BUILDING tile that names it pins it, its own build is done and its pins
go, and a gang that waits for it is ready (R403, R404, R450). -/
def tilePresent (s : State) (ctx va : Nat) : State :=
  let settle := fun (b : Build) =>
    let b1 := { b with links := b.links.filter (· != va) }
    if b.ctx == ctx && b.va == va then { b1 with done := true, pins := [] }
    else if b.ctx == ctx && b.admitted && !b.done && namesSource s b va && !b.pins.contains va then { b1 with pins := va :: b1.pins }
    else b1
  let wake := fun (g : Group) => if g.ctx == ctx && g.future == .tile va then { g with ready := g.ready.or (some s.clock) } else g
  { s with builds := (s.builds.map settle).filter fun b => b.admitted || !b.done, groups := s.groups.map wake }

/-- The ranges a recompute group may load from: each source, and the tag bytes of a plain one (R405). -/
def sourceRanges (s : State) (c : Ctx) (key : Nat) : List (Nat × Nat) :=
  match buildByKey s key with
  | none => []
  | some b => match regionAt c b.va with
    | none => []
    | some (r, n) => (recordSources s c (recordAddr r n)).flatMap fun (plain, a) =>
        if plain then [(a, 4096), ((c.tagbase + a / 4) % 2 ^ 56, 1024)] else [(a, 4096)]

/-- Do n bytes at an address lie within one of the ranges? -/
def within (l : List (Nat × Nat)) (a n : Nat) : Bool := l.any fun r => decide (r.1 ≤ a) && decide (a + n ≤ r.1 + r.2)

/-- The tag address of the word at a global address outside derived regions (R261). -/
def tagAddr (c : Ctx) (a : Nat) : Nat := (c.tagbase + a / 4) % 2 ^ 56

/-- The offset in a derived tile's 5,120 bytes of a data byte, or of the tag byte of its word (R265). -/
def tileOff (isTag : Bool) (va : Nat) : Nat := if isTag then 4096 + va % 4096 / 4 else va % 4096

end Sys2Proof.Machine
end

