-- ==== Sys2Proof/Machine/Queue.lean ====
section
/-! DEFINITION. The memory queues (R301 to R313): which entry may be sent, how the parts of a sent entry are performed
at their places, and what happens when an entry is complete. -/

namespace Sys2Proof

/-- The group of an agent. -/
def Agent.gid : Agent → Nat
  | .strand g _ | .capstan g => g

end Sys2Proof

namespace Sys2Proof.Machine

/-! ### An agent's list of accesses -/

/-- The accesses of an agent, oldest first. -/
def accOf (g : Group) : Agent → List Entry
  | .strand _ j => ((g.strands[j]?).map (·.acc)).getD []
  | .capstan _ => (g.cap.map (·.acc)).getD []

/-- A group with an agent's accesses replaced. -/
def putAcc (g : Group) (ag : Agent) (l : List Entry) : Group :=
  match ag with
  | .strand _ j => { g with strands := updAt g.strands j fun st => { st with acc := l } }
  | .capstan _ => { g with cap := g.cap.map fun k => { k with acc := l } }

/-- The state with an agent's accesses replaced. -/
def setAcc (s : State) (ag : Agent) (l : List Entry) : State :=
  match getGroup s ag.gid with
  | some g => putGroup s (putAcc g ag l)
  | none => s

/-! ### Sending (R304 to R313) -/

/-- A read-modify-write: an atomic, a CAS or a RED. -/
def Entry.rmw (e : Entry) : Bool :=
  match e.kind with
  | .atom .. | .cas .. => true
  | _ => false

/-- The order of an atomic, and its scope. -/
def Entry.order (e : Entry) : Order × Scope :=
  match e.kind with
  | .atom _ _ ord sc _ | .cas ord sc _ _ => (ord, sc)
  | _ => (.rlx, .core)

/-- Is the entry an acquire, or a release? -/
def Entry.acquires (e : Entry) : Bool := e.order.1 == .acq || e.order.1 == .acqrel
/-- A release. -/
def Entry.releases (e : Entry) : Bool := e.order.1 == .rel || e.order.1 == .acqrel

/-- MARK, FENCE and the hand-off of a TAKE: nothing after them is sent while they stand. -/
def Entry.blocks (e : Entry) : Bool :=
  match e.kind with
  | .mark | .fence _ | .handoff _ _ => true
  | _ => false

/-- What a lookup, or the state of a derived tile, waits for as it is read at issue: a MARK, FENCE, hand-off or acquire before it,
and an atomic that has not been sent (R304, R306, R309, R313). -/
def Entry.stalls (e : Entry) : Bool := e.blocks || e.acquires || (e.isLd && !e.sent)

/-- A TSTD of the tile at an address. -/
def Entry.derives (e : Entry) (va : Nat) : Bool :=
  match e.kind with
  | .tstd a .. => a == granule va
  | _ => false

/-- Byte ranges of two parts overlap at one place. -/
def Part.meets (p q : Part) : Bool :=
  (match p.place, q.place with
   | .shared _, .shared _ => true
   | .derived .., .derived .. => granule p.addr == granule q.addr
   | .home .., .home .. => true
   | _, _ => false) && overlaps p.pa p.len q.pa q.len

/-- An older load of the agent that has not been performed overlaps the entry (R305). -/
def Entry.heldBy (e o : Entry) : Bool :=
  e.isSt && o.isLd && o.parts.any fun q => !q.done && e.parts.any fun p => p.meets q

/-- May the entry be sent, given those before it that are not complete? -/
def Entry.sendable (before : List Entry) (e : Entry) : Bool :=
  !e.sent && !e.blocks &&
  (before.all fun o => !o.blocks && !(o.acquires) && !e.heldBy o &&
    (o.sent || !((o.isLd && e.isLd) || (o.isSt && e.isSt)))) &&
  (!e.releases || before.isEmpty)

/-- The entries before the one with a sequence number, and that one. -/
def findEntry (l : List Entry) (seq : Nat) : Option (List Entry × Entry) :=
  match l.find? fun e => e.seq == seq with
  | some e => some (l.takeWhile (fun x => x.seq != seq), e)
  | none => none

/-- An entry is sent. -/
def sendEntry (l : List Entry) (seq : Nat) : List Entry := l.map fun e => if e.seq == seq then { e with sent := true } else e

/-- The L1 effect of an acquire at a scope (R307). -/
def acquireL1 (s : State) (core : Nat) (sc : Scope) : State :=
  match sc with
  | .core => s
  | _ => l1Clear s core

/-- Has every access of the giver before a GIVE been performed (R313)? -/
def handoffDone (g : Group) (giver : Agent) (upto : Nat) : Bool := (accOf g giver).all fun e => decide (upto ≤ e.seq)

/-- A MARK, a FENCE, an arrival or a hand-off at the head of the list goes when its condition holds. -/
def popHead (s : State) (g : Group) (ag : Agent) : Option State :=
  match accOf g ag with
  | e :: rest => match e.kind with
    | .mark => some (setAcc s ag rest)
    | .fence sc => some (acquireL1 (setAcc s ag rest) g.core sc)
    | .arrive pos c => some (arriveAt (setAcc s ag rest) g.gid pos c 1)
    | .handoff giver upto => if handoffDone g giver upto then some (setAcc s ag rest) else none
    | _ => none
  | [] => none

/-- The first unsent entry of a queue. -/
def nextUnsent (l : List Entry) (store : Bool) : Option (List Entry × Entry) :=
  match l.find? fun e => !e.sent && !e.blocks && (if store then e.isSt else e.isLd) with
  | some e => findEntry l e.seq
  | none => none

/-- A queue of a group that holds a core sends its next entry, if it may; a barrier at the head of the list goes first. -/
def queueSend (s : State) (ag : Agent) (store : Bool) : State :=
  match getGroup s ag.gid with
  | none => s
  | some g => if g.state == .saved then s else match popHead s g ag with
    | some s' => s'
    | none => match nextUnsent (accOf g ag) store with
      | some (before, e) => if e.sendable before then setAcc s ag (sendEntry (accOf g ag) e.seq) else s
      | none => s

/-! ### Performing a part -/

/-- One place for a physical and a derived line of one slice (R302). -/
def samePlace (p q : Place) : Bool :=
  match p, q with
  | .home d s, .home e t | .home d s, .derived e t | .derived d s, .home e t | .derived d s, .derived e t => d == e && s == t
  | .shared a, .shared b => a == b
  | .host, .host => true
  | _, _ => false

/-- A CMO, which acts at the places of its whole range. -/
def Entry.maintains (e : Entry) : Bool :=
  match e.kind with
  | .cmo .. => true
  | _ => false

/-- An earlier sent entry of the same queue has not been performed at the part's place (R304). -/
def placeBusy (before : List Entry) (e : Entry) (p : Part) : Bool :=
  before.any fun o => o.sent && ((o.isLd && e.isLd) || (o.isSt && e.isSt)) &&
    (o.maintains || o.parts.any fun q => !q.done && samePlace q.place p.place)

/-- A record that RCPQ cannot read, without a fault: its word is a free value (R410; log 119). -/
def Part.guess (p : Part) (k : Nat) : Part :=
  { p with done := true, got := leBytes 4 (Config.freeWord k).toNat ++ leBytes 4 (Config.freeWord (k + 1)).toNat }

/-- Does the part lie in a derived tile? -/
def Part.onTile (p : Part) : Bool :=
  match p.place with
  | .derived .. => true
  | _ => false

/-- Does the part write the byte at offset `off` of the space `p` lies in? -/
def Part.covers (q p : Part) (off : Nat) : Bool := q.meets { p with pa := off, len := 1 }

/-- The byte a load finds in the agent's own older stores: none where no older unperformed store writes it, `some none`
where an atomic that has not been performed does (R305). -/
def forwarded (before : List Entry) (p : Part) (off : Nat) : Option (Option Byte) :=
  match before.reverse.find? fun o => o.isSt && o.parts.any fun q => !q.done && q.covers p off with
  | none => none
  | some o => match o.kind with
    | .store => match o.parts.reverse.find? fun q => !q.done && q.covers p off with
      | some q => some (q.data[off - q.pa]?)
      | none => none
    | _ => some none

/-- A part of a load on a derived tile is performed with every other one of its entry on that tile: each load takes its bytes from
one contents (R299; log 153). -/
def Entry.onTileOf (e : Entry) (p q : Part) : Bool :=
  e.isLd && !e.isSt && p.onTile && q.onTile && granule q.addr == granule p.addr && !q.done

/-- The error of a poisoned line (R272). -/
def poisonErr (s : State) (pa : Nat) : Nat := errCode 0x0A (poisonExtra s.fresh pa)

/-- The error of a word of shared memory. -/
def sharedErr (core : Nat) : Nat := errCode 0x0A (BitVec.ofNat 32 (4 + core / 128 % 8 * 16))

/-- Words of shared memory a range touches that hold an uncorrectable error. -/
def sharedBad (g : Group) (a n : Nat) : Bool := g.badShared.any fun w => overlaps w 4 a n

/-- The first byte of a range of shared memory that holds an uncorrectable error (R272). -/
def sharedBadAt (g : Group) (a n : Nat) : Nat :=
  (g.badShared.filter fun w => overlaps w 4 a n).foldl (fun m w => min m (max w a)) (a + n)

/-- A part that an uncorrectable error has ended. -/
def Part.spoil (p : Part) (g : Group) (err : Nat) : Part :=
  { p with done := true, err, addr := match p.place with
      | .shared _ => sharedBadAt g p.pa p.len
      | _ => p.addr }

/-- What the bytes of a part at its place are: the bytes or an error, with the state after the read, or nothing yet. -/
inductive ReadOut
  | bytes (l : List Byte) (s : State)
  | err (e : Nat) (s : State)
  | wait (s : State)
  deriving DecidableEq, Repr

/-- A load that misses in the L1 fills the line, and is counted (R303, R432). -/
def l1Miss (s : State) (core pa : Nat) : State :=
  let t := l1Fill s core pa
  putCore t core (perfCount (getCore t core) 8 1)

/-- Has the derived tile at an address been RETIRED since the load issued (R266)? -/
def tileGone (s : State) (c : Ctx) (va : Nat) : Bool :=
  match regionAt c va with
  | some (r, n) => recState s c r n == rsAbsent || recState s c r n == rsRetired
  | none => false

/-- The line of a tile's recipe record, where it is poisoned (R271). -/
def recordLost (s : State) (c : Ctx) (va : Nat) : Option Nat :=
  (regionAt c va).bind fun x => match sysCheck s c .load (recordAddr x.1 x.2) with
    | .ok pa _ => if isPoisoned s pa then some pa else none
    | _ => none

/-- The bytes of a part in its derived tile. -/
def tileBytes (s : State) (c : Ctx) (p : Part) : List Byte := (List.range p.len).map fun k => tileByte s c.id (granule p.addr) (p.pa + k)

/-- The part with the bytes of its derived tile. -/
def Part.fromTile (p : Part) (s : State) (c : Ctx) : Part := { p with done := true, got := tileBytes s c p }

/-- The address of the recipe record of the tile at an address. -/
def recordAt (c : Ctx) (va : Nat) : Nat := ((regionAt c va).map fun x => recordAddr x.1 x.2).getD va

/-- A read of a part at its place. `cached` says that the core's L1 may serve it (R303). -/
def readPlace (s : State) (g : Group) (c : Ctx) (cached : Bool) (p : Part) : ReadOut :=
  match p.place with
  | .shared _ => if sharedBad g p.pa p.len then .err (sharedErr g.core) s else .bytes (readBytes g.shared p.pa p.len) s
  | .derived .. =>
      match tileUnready s c p.addr, recordLost s c p.addr with
      | some va, _ => .wait (meetTile s c g.build va)
      | none, some pa => .err (poisonErr s pa) (meetPoison s pa)
      | none, none => if tileGone s c p.addr then .err (errCode 0x08 3) s else .bytes (tileBytes s c p) s
  | .host => .bytes (readBytes s.mem p.pa p.len) s
  | .home .. =>
      match if cached then l1Line (getCore s g.core) p.pa else none with
      | some l => .bytes ((l.bytes.drop (p.pa % 128)).take p.len) s
      | none =>
        if isPoisoned s p.pa then .err (poisonErr s p.pa) (meetPoison s p.pa)
        else match fillLine s (some c.id) p.addr p.pa false false with
          | none => .wait s
          | some s1 => .bytes (readBytes s1.mem p.pa p.len) (if cached then l1Miss s1 g.core p.pa else s1)

/-- Is the part read without its place: served by the L1, or wholly by the agent's own stores? -/
def readsLocally (s : State) (g : Group) (before : List Entry) (cached : Bool) (p : Part) : Bool :=
  (match p.place with
   | .home .. => cached && (l1Line (getCore s g.core) p.pa).isSome
   | _ => false) ||
  (List.range p.len).all fun k => (forwarded before p (p.pa + k)).isSome

/-- A load part, with the bytes of the agent's own older stores over those of its place (R305). -/
def loadPart (s : State) (g : Group) (c : Ctx) (before : List Entry) (cached : Bool) (p : Part) : ReadOut :=
  let own := (List.range p.len).map fun k => forwarded before p (p.pa + k)
  if own.any fun o => o == some none then .wait s
  else if own.all fun o => o.isSome then .bytes (own.map fun o => ((o.getD none).getD 0)) s
  else match readPlace s g c cached p with
    | .bytes l s1 => .bytes (l.mapIdx fun k b => match own.getD k none with
        | some (some x) => x
        | _ => b) s1
    | r => r

/-- Bytes written at a physical home, with the core's L1 copy updated (R258). None: the line has no way yet. -/
def storeHome (s : State) (g : Group) (c : Ctx) (va pa : Nat) (bs : List Byte) : Option State :=
  (fillLine s (some c.id) va pa false false).map fun s1 =>
    let s2 := writeHome s1 pa bs
    putCore s2 g.core (l1Update (getCore s2 g.core) pa bs)

/-- Do the parts still to be performed, but for those of some lanes, write every byte of a line (R271)? -/
def coversLine (e : Entry) (lost : List Nat) (pa : Nat) : Bool :=
  (List.range 128).all fun k => e.parts.any fun p => !p.done && !lost.contains p.lane && overlaps p.pa p.len (pa / 128 * 128 + k) 1

/-- Does the part lie at a physical home, in a poisoned line? -/
def Part.poisoned (p : Part) (s : State) : Bool :=
  (match p.place with
   | .home .. => true
   | _ => false) && isPoisoned s p.pa

/-- More lanes of a store that write nothing: those with a byte, of data or of a tag, in a poisoned line that the other lanes do
not cover. The fuel is the number of lanes. -/
def Entry.loseMore (e : Entry) (s : State) : Nat → List Nat → List Nat
  | 0, l => l
  | n + 1, l =>
      let more := ((e.parts.filter fun q => !q.done && !l.contains q.lane && q.poisoned s && !coversLine e l q.pa).map (·.lane)).eraseDups
      if more.isEmpty then l else e.loseMore s n (l ++ more)

/-- The lanes of a store that write nothing, neither data nor tag (R261, R278). -/
def Entry.lostLanes (e : Entry) (s : State) : List Nat :=
  if e.parts.any fun q => !q.done && q.poisoned s then e.loseMore s 32 [] else []

/-- Shared memory written; a word written whole is whole again. -/
def Group.writeShared (g : Group) (off : Nat) (bs : List Byte) : Group :=
  { g with shared := writeBytes g.shared off bs
           badShared := g.badShared.filter fun w => !(decide (off ≤ w) && decide (w + 4 ≤ off + bs.length)) }

/-- Parts of an entry replaced by index. -/
def Entry.setPart (e : Entry) (ix : Nat) (f : Part → Part) : Entry := { e with parts := updAt e.parts ix f }

/-- A store part performed; a poisoned line takes only a whole line, written at once, and a lane with a byte in one that is not
written whole writes neither data nor tag (R261, R271, R278; log 152). -/
def storePart (s : State) (g : Group) (c : Ctx) (e : Entry) (ix : Nat) (p : Part) : Option (State × Entry) :=
  match p.place with
  | .shared _ => some (putGroup s (g.writeShared p.pa p.data), e.setPart ix fun p => { p with done := true })
  | .home .. =>
      let lost := e.lostLanes s
      if lost.contains p.lane then
        let mine := fun q : Part => q.lane == p.lane && !q.done
        some ((e.parts.filter fun q => mine q && q.poisoned s).foldl (fun s q => meetPoison s q.pa) s,
          { e with parts := e.parts.map fun q => if !mine q then q else if q.poisoned s then q.spoil g (poisonErr s q.pa) else { q with done := true } })
      else if isPoisoned s p.pa then
          let mine := fun q : Part => q.pa / 128 == p.pa / 128 && !q.done && !lost.contains q.lane
          (e.parts.filter mine).foldl (fun acc q => acc.bind fun s => storeHome s g c q.addr q.pa q.data) (some s) |>.map fun s1 =>
            (curePoison s1 (· == p.pa / 128 * 128),
             { e with parts := e.parts.map fun q => if mine q then { q with done := true } else q })
      else (storeHome s g c p.addr p.pa p.data).map fun s1 => (s1, e.setPart ix fun p => { p with done := true })
  | _ => some (s, e.setPart ix fun p => { p with done := true })

/-- The new value of an atomic (R283, R285). -/
def atomNew (op : AOp) (f : Fmt) (o : NanSrc) (old b : Nat) : Nat :=
  let fl : FOp → Nat := fun x => (fpElem x .f32 .rn false o (opdOf .f32 old 0xFF 0) (opdOf .f32 b 0xFF 0) (opdOf .f32 0 0xFF 0)).1
  let pick : Bool → Nat := fun lower => if (elemInt f old 0 < elemInt f b 0) == lower then old else b
  match op with
  | .add => if f = .f32 then fl .add else (old + b) % 2 ^ 32
  | .min => if f = .f32 then fl .min else pick true
  | .max => if f = .f32 then fl .max else pick false
  | .and => old &&& b
  | .or => old ||| b
  | .xor => old ^^^ b
  | .exch => b
  | .inc => if b ≤ old then 0 else old + 1

/-- The bytes an atomic part writes, none where a CAS fails. -/
def atomWrites (e : Entry) (p : Part) (old : List Byte) : Option (List Byte) :=
  match e.kind with
  | .atom op f _ _ _ => some (leBytes p.len (atomNew op f ⟨p.lane, 0, e.pc⟩ (leNat old) (leNat p.data)))
  | .cas _ _ _ _ => if old = p.cmp then some p.data else none
  | _ => none

/-- An atomic part performed at its place (R285). With a poisoned lane no lane of an atomic writes; a RED's other lanes
are performed (R278). Its lanes are performed one after another: log 151. -/
def atomPart (s : State) (g : Group) (c : Ctx) (e : Entry) (ix : Nat) (p : Part) : Option (State × Entry) :=
  match p.place with
  | .shared _ =>
      if e.parts.any (fun q => sharedBad g q.pa q.len) then
        let hit := fun (q : Part) => if sharedBad g q.pa q.len then q.spoil g (sharedErr g.core) else { q with done := true }
        some (s, { e with parts := e.parts.map hit })
      else
        let old := readBytes g.shared p.pa p.len
        let s1 := match atomWrites e p old with
          | some bs => putGroup s (g.writeShared p.pa bs)
          | none => s
        some (s1, e.setPart ix fun p => { p with done := true, got := old })
  | .home .. =>
      if isPoisoned s p.pa || (e.isLd && e.parts.any fun q => isPoisoned s q.pa) then
        let hit := fun (q : Part) =>
          if isPoisoned s q.pa then q.spoil g (poisonErr s q.pa) else { q with done := q.done || e.isLd }
        some (e.parts.foldl (fun s q => meetPoison s q.pa) s, { e with parts := e.parts.map hit })
      else (fillLine s (some c.id) p.addr p.pa false false).map fun s1 =>
        let old := readBytes s1.mem p.pa p.len
        let s2 := match atomWrites e p old with
          | some bs => writeHome s1 p.pa bs
          | none => s1
        (l1Drop s2 g.core p.pa p.len, e.setPart ix fun p => { p with done := true, got := old })
  | _ => some (s, e.setPart ix fun p => { p with done := true })

/-! ### Operations without parts -/

/-- The lines of a range of plain memory whose pages are present and readable, by physical address, with the virtual
address of each. -/
def rangeLines (s : State) (c : Ctx) (base len : Nat) : List (Nat × Nat) :=
  if len = 0 then [] else
  ((List.range ((base + len - 1) / 128 - base / 128 + 1)).filterMap fun k =>
    let va := base / 128 * 128 + 128 * k
    match checkSys s c .load va 1 with
    | .ok pa (.home ..) => some (va, pa)
    | _ => none)

/-- The derived tiles a range touches. -/
def rangeTiles (c : Ctx) (base len : Nat) : List Nat :=
  if len = 0 then [] else
  ((List.range ((base + len - 1) / 4096 - base / 4096 + 1)).map fun k => base / 4096 * 4096 + 4096 * k).filter
    fun va => (regionAt c va).isSome

/-- CMO on one line of plain memory at level .mem (R289): write back, then or else invalidate. -/
def cmoLine (s : State) (op : CmoOp) (pa : Nat) : State :=
  match l2Line s pa with
  | none => s
  | some l =>
    let base := pa / 128 * 128
    let drop := fun s : State => { s with l2 := s.l2.filter fun x => !(x.tile.isNone && x.pa == base) }
    match op with
    | .clean => { s with l2 := s.l2.map fun x => if x.tile.isNone && x.pa == base then { x with old := none } else x }
    | .cleaninval => drop s
    | .inval => match l.old with
      | some bs => drop { s with mem := writeBytes s.mem base bs }
      | none => drop s

/-- A CMO performed on its whole range (R289). -/
def cmoPerform (s : State) (core : Nat) (c : Ctx) (op : CmoOp) (level : CmoLevel) (base len : Nat) : State :=
  let lines := rangeLines s c base len
  let inv := op != .clean
  let s1 := if inv then lines.foldl (fun s l => l1Drop s core (l.2 / 128 * 128) 128) s else s
  let s2 := if level = .mem then lines.foldl (fun s l => cmoLine s op l.2) s1 else s1
  if inv && level != .l1 then (rangeTiles c base len).foldl (fun s va => dropTile s c.id va) s2 else s2

/-- The bytes of a record with its STATE and BSTEP written (R397), from a descriptor. -/
def recordBytes (desc : List Byte) (step : Nat) : List Byte :=
  let w0 := leNat (desc.take 8)
  leBytes 8 (w0 % 2 ^ 16 + rsPresent * 2 ^ 16 + w0 / 2 ^ 19 * 2 ^ 19) ++ (desc.drop 8).take 8 ++ leBytes 8 step ++
  (desc.drop 24).take 40

/-- Does a strand or Capstan wait at its instruction or slot, which is to issue again, for a derived tile (R316)? What waited as the
tile became PRESENT is performed before anything replaces or retires it (log 117). -/
def tileAwaited (s : State) (ctx va : Nat) : Bool :=
  s.groups.any fun g => g.ctx == ctx && g.state == .resident &&
    ((g.strands.any fun st => st.wait.any fun w => w.kind == .tile va) || g.cap.any fun k => k.pageWait == some (.tile va))

/-- The parts of a load on the tile of one of them are performed: each takes its bytes of the tile's present contents (R299; log 153). -/
def Entry.readTile (e : Entry) (s : State) (c : Ctx) (p : Part) : Entry :=
  { e with parts := e.parts.map fun q => if e.onTileOf p q then q.fromTile s c else q }

/-- The parts of a load on the tile of one of them end with an error. -/
def Entry.failTile (e : Entry) (g : Group) (p : Part) (err : Nat) : Entry :=
  { e with parts := e.parts.map fun q => if e.onTileOf p q then q.spoil g err else q }

/-- The issued loads that wait on a tile take its bytes at the instant in which it becomes PRESENT, those of saved groups too
(R316). Each is completed later. -/
def performWaiting (s : State) (c : Ctx) (va : Nat) : State :=
  let load := fun (e : Entry) => match e.tileSince, e.parts.find? fun p => !p.done && p.onTile && granule p.addr == va with
    | some _, some p => e.readTile s c p
    | _, _ => e
  { s with groups := s.groups.map fun g => if g.ctx != c.id then g else
      { g with strands := g.strands.map fun st => { st with acc := st.acc.map load }
               cap := g.cap.map fun k => { k with acc := k.acc.map load } } }

/-- Is a tile BUILDING for another group than one that writes it (R299, R399)? A group whose build is done is no longer the chain's own. -/
def builtAway (s : State) (g : Group) (c : Ctx) (va : Nat) : Bool :=
  let own := (g.build.bind (buildByKey s)).any fun b => b.va == va && b.ctx == c.id && !b.done
  !own && (regionAt c va).any fun x => recState s c x.1 x.2 == rsBuilding

/-- The line of a tile's recipe record is brought into the L2, if a way may be chosen. -/
def fillRecord (s : State) (c : Ctx) (at_ : Nat) : State :=
  match sysTrans s c at_ with
  | some pa => (fillLine s (some c.id) at_ pa false false).getD s
  | none => s

/-- A TSTD performed (R299): it waits while another group's build runs, while what waits at its instruction has not read a PRESENT
tile, and while a line has no way. Its record is written in place, so that no line of the tile leaves for it (log 139). -/
def tstdPerform (s : State) (g : Group) (c : Ctx) (va : Nat) (rec_ data : List Byte) : Option State :=
  match regionAt c va with
  | none => some s
  | some (r, n) =>
    if builtAway s g c va || (recState s c r n == rsPresent && tileAwaited s c.id va) then none
    else (placeTile (fillRecord s c (recordAddr r n)) c r n va).map fun s1 =>
      let s2 := { s1 with dtiles := (s1.dtiles.filter fun d => !(d.ctx == c.id && d.va == va)) ++
                            [{ ctx := c.id, va, bytes := writeBytes [] 0 data }] }
      performWaiting (tilePresent (sysPoke s2 c (recordAddr r n) rec_) c.id va) c va

/-! ### Completion -/

/-- The lanes of an entry's failed parts, their least address, and the first error. -/
def Entry.failure (e : Entry) : Option (Word × Nat × Nat) :=
  match e.parts.filter fun p => p.err != 0 with
  | [] => none
  | p :: ps => some (maskOf fun i => (p :: ps).any fun q => q.lane == i, p.addr, p.err)

/-- The V word writes of a completed access. -/
def Entry.vwrites (e : Entry) : List VWrite :=
  let put := fun (d n lane : Nat) (w : Nat) (t : Byte) =>
    ({ tile := (d + n) / 8, reg := (d + n) % 8, lane, word := BitVec.ofNat 32 w, tag := t } : VWrite)
  match e.kind with
  | .load w sx _ tagged d =>
      (e.parts.filter fun p => !p.isTag).flatMap fun p =>
        let v := leNat p.got
        let tag := fun n => if tagged then
            (match e.parts.find? fun q => q.isTag && q.lane == p.lane && q.word == n with
             | some q => q.got.getD 0 0xFF
             | none => 0xFF) else 0xFF
        if w.bytes ≤ 4 then
          [put d 0 p.lane (if sx then sext64 (8 * w.bytes) v else v) (tag 0)]
        else (List.range (w.bytes / 4)).map fun n => put d n p.lane (v / 2 ^ (32 * n)) (tag n)
  | .atom _ _ _ _ (some d) => e.parts.map fun p => put d 0 p.lane (leNat p.got) 0xFF
  | .cas _ _ d wide => e.parts.flatMap fun p =>
      put d 0 p.lane (leNat p.got) 0xFF :: if wide then [put d 1 p.lane (leNat p.got / 2 ^ 32) 0xFF] else []
  | .lookup v => v
  | .rcpq step d => e.parts.flatMap fun p =>
      let w := leNat p.got
      if step then
        let x := if p.len = 0 then 2 ^ 64 - 1 else w
        [put d 0 p.lane x 0xFF, put d 1 p.lane (x / 2 ^ 32) 0xFF]
      else [put d 0 p.lane (if p.len = 0 then 7 else
        bits w 18 16 + bits w 22 20 * 2 ^ 4 + bits w 27 24 * 2 ^ 8 + bits w 15 0 * 2 ^ 16) 0xFF]
  | _ => []

/-- The entry is gone, its path counter falls (R274), and the frames it held back may go (R387). -/
def dropEntry (s : State) (ag : Agent) (e : Entry) : State :=
  match getGroup s ag.gid with
  | none => s
  | some g =>
    let g1 := putAcc g ag ((accOf g ag).filter fun x => x.seq != e.seq)
    let s1 := putGroup s (match e.path with
      | some p => g1.pathLower p e.seq
      | none => g1)
    match e.frames, getCtx s1 g.ctx with
    | [], _ | _, none => s1
    | _, some c => settleFrames s1 c

/-- A strand's entry is complete: its data lands, or the strand takes the error (R278). -/
def finishStrand (s : State) (gid j : Nat) (e : Entry) : State :=
  let s1 := dropEntry s (.strand gid j) e
  match getGroup s1 gid with
  | none => s1
  | some g => match e.failure with
    | none =>
        let s2 := putGroup s1 (g.writeWords e.vwrites)
        if e.acquires then acquireL1 s2 g.core e.order.2 else s2
    | some (lanes, addr, err) => match viewOf s1 gid j e.iw0 e.iw1 with
      | none => s1
      | some v =>
          deferTrap v { cause := err % 256, pc := e.pc, rpc := v.st.pc, lanes, extra := BitVec.ofNat 32 (err / 256),
                        addr := BitVec.ofNat 64 addr, long := longForm e.iw0, iw0 := e.iw0,
                        iw1 := if longForm e.iw0 then e.iw1 else 0, late := true } (!e.inHandler)

/-- The words of a loaded tile: row r holds tile bytes 64r to 64r + 63 (R208, R293). A tag part holds its word's number. -/
def tileWords (t : Nat) (tagged : Bool) (parts : List Part) : List VWrite :=
  let data := writeBytes [] 0 []
  let m := (parts.filter fun p => !p.isTag).foldl (fun m p => writeBytes m (64 * p.lane) p.got) data
  (List.range 256).map fun k =>
    { tile := t, reg := k / 32, lane := k % 32, word := BitVec.ofNat 32 (readNat m (4 * k) 4)
      tag := if tagged then (match parts.find? fun p => p.isTag && p.word == k with
        | some p => p.got.getD 0 0xFF
        | none => 0xFF) else 0xFF }

/-- The offending-slot bit of a Capstan entry (R63, R295). -/
def Entry.slotMask (e : Entry) : Nat :=
  match e.kind with
  | .kreg .. => 0x004
  | .tile .. | .sld .. => 0x010
  | _ => 0x008

/-- A halted Capstan with no slot left to commit: a bundle whose HALT has committed still commits its later slots, also
after a trap at one of them (R64, R195). -/
def Capstan.atRest (k : Capstan) : Bool := k.halted && k.part.isNone && !(k.reenter.isSome && k.cpc == k.haltPc)

/-- The clock from which a completion trap found now is taken: after HALT the clock after its cause (R207), else the next boundary. -/
def Capstan.trapDue (k : Capstan) (clock : Nat) : Nat := if k.atRest then clock + 1 else 0

/-- A completion trap of the Capstan (R295): the bundle that issued the access is named. -/
def Capstan.errorTrap (k : Capstan) (e : Entry) (addr err clock : Nat) : Capstan :=
  { k with traps := k.traps ++ [{ cause := err % 256, compl := true, smask := e.slotMask, bpc := e.bpc, crpc := k.cpc,
                                   npc := k.cpc, extra := BitVec.ofNat 32 (err / 256), addr := BitVec.ofNat 64 addr,
                                   seq := e.seq, due := k.trapDue clock }] }

/-- A Capstan's entry is complete (R293 to R298). -/
def finishCapstan (s : State) (gid : Nat) (e : Entry) : State :=
  let s1 := dropEntry s (.capstan gid) e
  match getGroup s1 gid with
  | none => s1
  | some g => match g.cap with
    | none => s1
    | some k =>
      let land := fun (seq : Nat) (f : Exposed → Exposed) =>
        let hit := fun (r : Exposed) => if r.seq == seq then f { r with ready := true } else r
        putGroup s1 ({ g with snaps := g.snaps.map hit }.putCap { k with res := k.res.map hit })
      match e.failure with
      | some (_, addr, err) =>
          let x := match e.kind with
            | .tile _ _ x | .kreg _ _ x => some x
            | _ => none
          let g := { g with snaps := g.snaps.filter fun r => some r.seq != x }
          let gone := { k with res := k.res.filter fun r => some r.seq != x, sld := k.sld.filter fun w => w.seq != e.seq }
          match g.build with
          | some key => abortFor s1 key (err % 256) (BitVec.ofNat 32 (err / 256))
          | none => putGroup s1 (g.putCap (gone.errorTrap e addr err s.clock))
      | none => match e.kind with
        | .tile t tagged x => land x fun r => { r with v := tileWords t tagged e.parts }
        | .kreg z n x =>
            let v := leNat (e.parts.flatMap fun p => p.got)
            land x fun r =>
              if z then { r with z := some (n, BitVec.ofNat 512 v) } else { r with x := some (n, BitVec.ofNat 128 v) }
        | .sld _ _ => putGroup s1 (g.putCap { k with sld := k.sld.map fun w =>
            if w.seq == e.seq then { w with data := some (e.parts.flatMap fun p => p.got) } else w })
        | _ => s1

/-- An entry whose parts have all been performed is complete. -/
def settleEntry (s : State) (ag : Agent) (e : Entry) : State :=
  if e.parts.all fun p => p.done then
    match ag with
    | .strand gid j => finishStrand s gid j e
    | .capstan gid => finishCapstan s gid e
  else
    match getGroup s ag.gid with
    | some g => putGroup s (putAcc g ag ((accOf g ag).map fun x => if x.seq == e.seq then e else x))
    | none => s

/-- Does a load of this entry use the core's L1 (R282, R303)? Derived and shared bytes never do. -/
def Entry.cached (e : Entry) : Bool :=
  match e.kind with
  | .load _ _ cg _ _ => !cg
  | .tile .. | .kreg .. | .sld .. => true
  | _ => false

/-- A part of a sent entry is performed. Nothing happens where it may not be performed yet, or while the group is saved. -/
def performPart (s : State) (ag : Agent) (seq ix : Nat) : State :=
  match getGroup s ag.gid with
  | none => s
  | some g => match getCtx s g.ctx, findEntry (accOf g ag) seq with
    | some c, some (before, e) =>
      if !e.sent || g.state == .saved then s
      else match e.kind with
        | .cmo op level base len =>
            if before.any (fun o => o.isSt) then s else settleEntry (cmoPerform s g.core c op level base len) ag e
        | .prefr base len tiles =>
            let left := tiles.filter fun va => (tileUnready s c va).isSome
            let s1 := left.foldl (fun s va => startBuild s c va g.build) s
            match (rangeLines s1 c base len).foldl (fun acc l => acc.bind fun s => fillLine s (some c.id) l.1 l.2 false false) (some s1) with
            | none => s1
            | some s2 => if left.isEmpty then settleEntry s2 ag (e.setPart 0 fun p => { p with done := true })
                         else settleEntry s2 ag { e with kind := .prefr base len left, parts := [{ addr := base, pa := 0, place := .host, len := 0 }] }
        | .tstd va rec_ data =>
            if (before.any fun o => e.heldBy o) || e.parts.any fun p => placeBusy before e p then s
            else match recordLost s c va with
            | some pa => settleEntry (meetPoison s pa) ag (e.setPart 0 fun p => { p with done := true, err := poisonErr s pa, addr := recordAt c va })
            | none => match tstdPerform s g c va rec_ data with
              | some s1 => settleEntry s1 ag (e.setPart 0 fun p => { p with done := true })
              | none => s
        | _ => match e.parts[ix]? with
          | none => settleEntry s ag e
          | some p =>
            if p.done then settleEntry s ag e
            else if e.rmw then
              if placeBusy before e p || (e.parts.take ix).any fun q => !q.done && q.meets p then s
              else match atomPart s g c e ix p with
                | some (s1, e1) => settleEntry s1 ag e1
                | none => s
            else if e.isSt then
              if placeBusy before e p || (before.any fun o => e.heldBy o) ||
                  (e.parts.take ix).any fun q => !q.done && q.meets p then s
              else match storePart s g c e ix p with
                | some (s1, e1) => settleEntry s1 ag e1
                | none => s
            else
              if placeBusy before e p && !readsLocally s g before e.cached p then s
              else match loadPart s g c before e.cached p with
                | .bytes l s1 => settleEntry s1 ag (if p.onTile then e.readTile s1 c p else e.setPart ix fun p => { p with done := true, got := l })
                | .err x s1 => match e.kind with
                  | .rcpq .. => settleEntry { s1 with free := s1.free + 2 } ag (e.setPart ix fun p => p.guess s1.free)
                  | _ => settleEntry s1 ag (if p.onTile then e.failTile g p x else e.setPart ix fun p => p.spoil g x)
                | .wait s1 => if (tileUnready s c p.addr).isSome && p.onTile && e.tileSince.isNone
                    then settleEntry s1 ag { e with tileSince := some s.clock } else s1
    | _, _ => s

end Sys2Proof.Machine
end

