-- ==== Sys2Proof/Machine/Memory.lean ====
section
/-! DEFINITION. Memories II: the load, store, atomic and cache instructions of strands (R274 to R291). -/

namespace Sys2Proof

/-- The V registers a memory base names (R124). -/
def MBase.vs (m : MBase) (global : Bool) : List (Nat × Nat) :=
  match m with
  | .v n => if global then [(1, n.val), (1, n.val + 1)] else [(1, n.val)]
  | .s _ => []

/-- The uniform registers a memory base names (R275). -/
def MBase.ss (m : MBase) (global : Bool) : List Nat :=
  match m with
  | .v _ => []
  | .s n => if global then [2 * n.val, 2 * n.val + 1] else [n.val]

end Sys2Proof

namespace Sys2Proof.Machine

/-! ### Accesses and what their checks decide (R277) -/

/-- One access of a lane, or of a row of a Capstan slot. -/
structure Access where
  lane : Nat
  isTag : Bool := false
  word : Nat := 0
  addr : Nat
  len : Nat
  align : Nat
  use : Use
  data : List Byte := []
  cmp : List Byte := []
  deriving DecidableEq, Repr

/-- What the checks of an instruction's accesses decide: the parts to perform, a trap, the pages to walk first, a wait
for a page, a map word or a tile, an access that earlier ones keep from issuing, or one that a recompute group may not make. -/
inductive AccessOut
  | parts (l : List Part)
  | trap (cause : Nat) (lanes extra : Word) (addr : Nat)
  | walk (pages : List Nat)
  | page (va : Nat)
  | tile (va : Nat)
  | record (va : Nat)
  | mapWord (handle page : Nat)
  | hold
  | recipe
  deriving DecidableEq, Repr

/-- The part of an access that passed its checks. -/
def Access.part (a : Access) (pa : Nat) (place : Place) : Part :=
  { lane := a.lane, isTag := a.isTag, word := a.word, addr := a.addr
    pa := match place with
      | .derived .. => tileOff a.isTag a.addr
      | _ => pa
    place, len := a.len, data := a.data, cmp := a.cmp }

/-- The lowest-numbered failing step of a list of verdicts; 100 where none fails. -/
def lowestRank (l : List (Access × Verdict)) : Nat :=
  l.foldl (fun m e => match e.2 with
    | .fail r _ _ _ => min m r
    | _ => m) 100

/-- The accesses that fail at a step, in order. -/
def failsAt (l : List (Access × Verdict)) (r : Nat) : List (Nat × Nat × Word × Nat) :=
  l.filterMap fun e => match e.2 with
    | .fail q cause extra addr => if q = r then some (e.1.lane, cause, extra, addr) else none
    | _ => none

/-- The pages whose walks are missing. -/
def missed (l : List (Access × Verdict)) : List Nat :=
  (l.filterMap fun e => match e.2 with
    | .miss p => some p
    | _ => none).eraseDups

/-- The parts of accesses that all passed. -/
def okParts (l : List (Access × Verdict)) : List Part :=
  l.filterMap fun e => match e.2 with
    | .ok pa place => some (e.1.part pa place)
    | _ => none

/-- R277 over the verdicts: the lowest failing step decides; a step that a missing walk could still undercut waits for
the walk. Accesses that passed wait for a tile that is not PRESENT, or take the fault its chain left (R406, R450). -/
def judge (s : State) (c : Ctx) (chain : Option ChainFault) (l : List (Access × Verdict)) : AccessOut :=
  let r := lowestRank l
  let pages := missed l
  let ps : List Part := okParts l
  if pages ≠ [] && decide (41 ≤ r) then .walk pages
  else match failsAt l r with
    | (lane, cause, extra, addr) :: rest =>
        if r = 43 then .page addr
        else if r = 44 then .record addr
        else .trap cause (maskOf fun i => i == lane || rest.any fun e => e.1 == i) extra addr
    | [] =>
        let hit := match chain with
          | some f => ps.filter fun (p : Part) => p.onTile && granule p.addr == f.va
          | none => []
        match chain, hit with
        | some f, p :: rest => .trap f.cause (maskOf fun i => i == p.lane || rest.any fun q => q.lane == i) f.extra p.addr
        | _, _ => match ps.findSome? fun (p : Part) => if p.onTile then tileUnready s c p.addr else none with
          | some va => .tile va
          | none => .parts ps

/-- May a recompute group make these accesses (R405)? -/
def sourcesAllow (s : State) (c : Ctx) (key : Nat) (l : List Access) : Bool :=
  l.all fun a => a.isTag || within (sourceRanges s c key) a.addr a.len

/-- Do an agent's earlier accesses, a TSTD of the same tile among them, keep a load of a derived tile, whose state its checks read,
from issuing (R304 to R313)? -/
def tileStalled (c : Ctx) (acc : List Entry) (l : List Access) : Bool :=
  l.any fun a => a.use == .load && (regionAt c a.addr).isSome && acc.any fun e => e.stalls || e.derives a.addr

/-- The global accesses of an agent, judged. -/
def judgeGlobal (s : State) (c : Ctx) (g : Group) (acc : List Entry) (walked : List (Nat × WalkResult)) (chain : Option ChainFault)
    (l : List Access) : AccessOut :=
  if tileStalled c acc l then .hold
  else match g.build with
  | some key => if sourcesAllow s c key l then judge s c chain (l.map fun a => (a, checkAgent s c g.core walked a.use a.addr a.align))
                else .recipe
  | none => judge s c chain (l.map fun a => (a, checkAgent s c g.core walked a.use a.addr a.align))

/-- Shared accesses, judged (R259). -/
def judgeShared (s : State) (c : Ctx) (g : Group) (l : List Access) : AccessOut :=
  judge s c none (l.map fun a => (a, checkShared g a.addr a.len a.align))

/-- The tag accesses of n words from a data address: in the tile for a derived address, else in the tag region (R261,
R265). -/
def tagAccesses (c : Ctx) (use : Use) (lane a n : Nat) (tag : Nat → List Byte) : List Access :=
  (List.range n).map fun k =>
    { lane, isTag := true, word := k, addr := if (regionAt c a).isSome then a + 4 * k else tagAddr c (a + 4 * k), len := 1,
      align := 1, use, data := tag k }

/-! ### Issue -/

/-- Walks of pages are asked of the core's walkers, of which it has 32; misses to one page are merged (R377). -/
def postWalks (s : State) (core ctx : Nat) (ag : Agent) (pages : List Nat) : State :=
  let co := getCore s core
  let add := fun (l : List Walk) page =>
    if l.any fun w => w.ctx == ctx && w.page == page then
      l.map fun w => if w.ctx == ctx && w.page == page && !w.waiters.contains ag then { w with waiters := w.waiters ++ [ag] } else w
    else if l.length < Config.walks then l ++ [{ ctx, page, waiters := [ag] }] else l
  putCore s core { co with walks := pages.foldl add co.walks }

/-- The strand waits at its instruction, which issues again whole. -/
def View.waitAt (v : View) (k : WaitKind) (len : Nat) : View :=
  { v with st := { v.st with wait := some { kind := k, since := v.s.clock, len }, walked := [], chainFault := none } }

/-- A strand whose handler the wait it begins unmasks (R441). -/
def View.yielding (v : View) : View := { v with st := { v.st with yield := true } }

/-- The walks and the chain fault an instruction has used are forgotten. -/
def View.settled (v : View) : View := { v with st := { v.st with walked := [], chainFault := none } }

/-- What the judged accesses of an instruction do: `v` is the view before it issued, `vc` after. Inside a region an absent
page makes the strand wait (R323). -/
def View.conclude (v vc : View) (n : Need) (out : AccessOut) (k : View → List Part → State) : State :=
  match out with
  | .parts ps => k vc.settled ps
  | .trap cause lanes extra addr =>
      if cause = 0x07 && v.st.active then (v.waitAt (.page addr) n.len).put
      else vc.settled.trapAt cause n.len lanes extra addr
  | .walk pages => postWalks v.put v.g.core v.c.id v.agent pages
  | .page va => (v.waitAt (.page va) n.len).put
  | .record va => (v.waitAt (.record va) n.len).put
  | .mapWord h p => (v.waitAt (.mapWord h p) n.len).put
  | .tile va => meetTile (v.waitAt (.tile va) n.len).put v.c v.g.build va
  | .hold => v.put
  | .recipe => match v.g.build with
    | some key => abortBuild vc.put key 0x12 2 0
    | none => vc.put

/-- A memory instruction: judged from the view before it issues; where it must wait it has not issued. An instruction
that acts in no lane only advances (R274). -/
def memExec (h : Hd) (n : Need) (out : View → AccessOut) (k : View → List Part → State) (s : State) :
    Host.Outcome State Fault Refusal :=
  match curView s with
  | none => .fault .noCurrentStrand
  | some v => if v.canIssue h n then
      .next ((v.charge n).gate h n fun vc =>
        if v.st.acting h = 0 then (vc.advance n.len).put else v.conclude vc n (out v) k)
    else .next s

/-- An entry added to the strand's queues, raising its path counter (R274, R304). A load is sent as it issues. -/
def View.enqueue (v : View) (kind : AccKind) (isLd isSt : Bool) (parts : List Part) (path : Option Nat)
    (frames : List Nat := []) : View :=
  let e : Entry := { seq := v.s.nextSeq, kind, isLd, isSt, parts, path, pc := v.st.pc, iw0 := v.iw0, iw1 := v.iw1,
                     inRegion := v.st.active, inHandler := v.st.handler.isSome, frames }
  let e := { e with sent := isLd && !isSt && e.sendable v.st.acc }
  { v with s := { v.s with nextSeq := v.s.nextSeq + 1 }, st := { v.st with acc := v.st.acc ++ [e] }
           g := match path with
             | some p => v.g.pathRaise p e.seq
             | none => v.g }

/-- A V register as a tile register, by tile × 8 + register. -/
def Strand.regIndex (st : Strand) (n : Nat) : Nat := st.tileOf n * 8 + n % 8

/-- A lane's address (R276); `disp` is in bytes. -/
def View.memAddr (v : View) (global : Bool) (base : MBase) (idx : BSrc) (disp : Nat) (i : Nat) : Nat :=
  let b := match base with
    | .v n => if global then (v.srcV .f64 n.val i).code else (v.srcV .b32 n.val i).code
    | .s n => if global then (readSS v.g (2 * n.val)).toNat else (readS v.g n.val).toNat
  (b + sext64 32 (v.srcB .b32 idx i).code + disp) % (if global then 2 ^ 64 else 2 ^ 32)

/-- A displacement of R275 in bytes, as a number below 2^64. -/
def dispBytes (disp : BitVec 8) (w : Width) : Nat := sext64 8 disp.toNat * w.bytes % 2 ^ 64

/-- The needs of a memory instruction (R275, R280). -/
def needM (global : Bool) (w : Width) (data : List (Nat × Nat)) (base : MBase) (idx : BSrc) (c : List (Nat × Nat)) (path : Option Nat) :
    Need :=
  { port := .mem, len := idx.len, occ := if w = .b128 then 2 else 1, named := data ++ base.vs global ++ idx.vs .b32 ++ c,
    sregs := base.ss global ++ idx.ss .b32, path, perLane := true }

/-- The data registers of a width (R275). -/
def dataRegs (field : Nat) (w : Width) (d : VR) : List (Nat × Nat) := (List.range (max 1 (w.bytes / 4))).map fun k => (field, d.val + k)

/-- The bytes a store takes from its data registers in a lane (R282). -/
def View.storeBytes (v : View) (w : Width) (d : VR) (i : Nat) : List Byte :=
  ((List.range (max 1 (w.bytes / 4))).flatMap fun k => leBytes 4 (readV v.g v.st (d.val + k) i).1.toNat).take w.bytes

/-- One access of each acting lane. -/
def View.laneAccesses (v : View) (h : Hd) (f : Nat → List Access) : List Access := (maskLanes (v.st.acting h)).flatMap f

/-! ### Loads and stores (R281, R282) -/

/-- LD. -/
def execLd (h : Hd) (w : Width) (sx cg : Bool) (d : VR) (base : MBase) (idx : BSrc) (disp : BitVec 8) :
    State → Host.Outcome State Fault Refusal :=
  let n := needM true w (dataRegs 0 w d) base idx [] (some 0)
  memExec h n
    (fun v => judgeGlobal v.s v.c v.g v.st.acc v.st.walked v.st.chainFault (v.laneAccesses h fun i =>
      [{ lane := i, addr := v.memAddr true base idx (dispBytes disp w) i, len := w.bytes, align := w.bytes, use := .load }]))
    fun v ps => ((v.enqueue (.load w sx cg false (v.st.regIndex d.val)) true false ps (some 0)).advance n.len).put

/-- LDT: data, and a tag byte for each word. -/
def execLdt (h : Hd) (w : Width) (cg : Bool) (d : VR) (base : MBase) (idx : BSrc) (disp : BitVec 8) :
    State → Host.Outcome State Fault Refusal :=
  let n := needM true w (dataRegs 0 w d) base idx [] (some 0)
  memExec h n
    (fun v => judgeGlobal v.s v.c v.g v.st.acc v.st.walked v.st.chainFault (v.laneAccesses h fun i =>
      let a := v.memAddr true base idx (dispBytes disp w) i
      { lane := i, addr := a, len := w.bytes, align := w.bytes, use := .load } ::
        tagAccesses v.c .load i a (w.bytes / 4) fun _ => []))
    fun v ps => ((v.enqueue (.load w false cg true (v.st.regIndex d.val)) true false ps (some 0)).advance n.len).put

/-- ST. -/
def execSt (h : Hd) (w : Width) (d : VR) (base : MBase) (idx : BSrc) (disp : BitVec 8) :
    State → Host.Outcome State Fault Refusal :=
  let n := { needM true w (dataRegs 0 w d) base idx [] (some 1) with noRegion := true, noRecompute := true, readsD := true }
  memExec h n
    (fun v => judgeGlobal v.s v.c v.g v.st.acc v.st.walked v.st.chainFault (v.laneAccesses h fun i =>
      [{ lane := i, addr := v.memAddr true base idx (dispBytes disp w) i, len := w.bytes, align := w.bytes, use := .store,
         data := v.storeBytes w d i }]))
    fun v ps => ((v.enqueue .store false true ps (some 1)).advance n.len).put

/-- STT: data, and each word's tag byte. -/
def execStt (h : Hd) (w : Width) (d : VR) (base : MBase) (idx : BSrc) (disp : BitVec 8) :
    State → Host.Outcome State Fault Refusal :=
  let n := { needM true w (dataRegs 0 w d) base idx [] (some 1) with noRegion := true, noRecompute := true, readsD := true }
  memExec h n
    (fun v => judgeGlobal v.s v.c v.g v.st.acc v.st.walked v.st.chainFault (v.laneAccesses h fun i =>
      let a := v.memAddr true base idx (dispBytes disp w) i
      { lane := i, addr := a, len := w.bytes, align := w.bytes, use := .store, data := v.storeBytes w d i } ::
        tagAccesses v.c .store i a (w.bytes / 4) fun k => [(readV v.g v.st (d.val + k) i).2]))
    fun v ps => ((v.enqueue .store false true ps (some 1)).advance n.len).put

/-- LDS. -/
def execLds (h : Hd) (w : Width) (sx : Bool) (d : VR) (base : MBase) (idx : BSrc) (disp : BitVec 8) :
    State → Host.Outcome State Fault Refusal :=
  let n := needM false w (dataRegs 0 w d) base idx [] (some 2)
  memExec h n
    (fun v => judgeShared v.s v.c v.g (v.laneAccesses h fun i =>
      [{ lane := i, addr := v.memAddr false base idx (dispBytes disp w) i, len := w.bytes, align := w.bytes, use := .load }]))
    fun v ps => ((v.enqueue (.load w sx false false (v.st.regIndex d.val)) true false ps (some 2)).advance n.len).put

/-- STS. -/
def execSts (h : Hd) (w : Width) (d : VR) (base : MBase) (idx : BSrc) (disp : BitVec 8) :
    State → Host.Outcome State Fault Refusal :=
  let n := { needM false w (dataRegs 0 w d) base idx [] (some 2) with readsD := true }
  memExec h n
    (fun v => judgeShared v.s v.c v.g (v.laneAccesses h fun i =>
      [{ lane := i, addr := v.memAddr false base idx (dispBytes disp w) i, len := w.bytes, align := w.bytes, use := .store,
         data := v.storeBytes w d i }]))
    fun v ps => ((v.enqueue .store false true ps (some 2)).advance n.len).put

/-! ### Atomics (R283 to R286) -/

/-- A word of a V register in a lane as bytes. -/
def View.wordBytes (v : View) (n i : Nat) : List Byte := leBytes 4 (readV v.g v.st n i).1.toNat

/-- A word or a pair of V registers in a lane as bytes. -/
def View.dataBytes (v : View) (wide : Bool) (n i : Nat) : List Byte :=
  if wide then v.wordBytes n i ++ v.wordBytes (n + 1) i else v.wordBytes n i

/-- The registers of a word or a pair. -/
def wideRegs (field : Nat) (wide : Bool) (n : VR) : List (Nat × Nat) :=
  if wide then [(field, n.val), (field, n.val + 1)] else [(field, n.val)]

/-- ATOM. -/
def execAtom (h : Hd) (op : AOp) (f : Fmt) (ord : Order) (sc : Scope) (d : VR) (base : MBase) (idx : BSrc) (c : VR) :
    State → Host.Outcome State Fault Refusal :=
  let n := { needM true .b32 [(0, d.val)] base idx [(3, c.val)] (some 0) with noRegion := true, noRecompute := true }
  memExec h n
    (fun v => judgeGlobal v.s v.c v.g v.st.acc v.st.walked v.st.chainFault (v.laneAccesses h fun i =>
      [{ lane := i, addr := v.memAddr true base idx 0 i, len := 4, align := 4, use := .atomic, data := v.wordBytes c.val i }]))
    fun v ps => ((v.enqueue (.atom op f ord sc (some (v.st.regIndex d.val))) true true ps (some 0)).advance n.len).put

/-- CAS: D holds the compare value, C the new one (R284). -/
def execCas (h : Hd) (wide : Bool) (ord : Order) (sc : Scope) (d : VR) (base : MBase) (idx : BSrc) (c : VR) :
    State → Host.Outcome State Fault Refusal :=
  let n := { needM true .b32 (wideRegs 0 wide d) base idx (wideRegs 3 wide c) (some 0) with
    noRegion := true, noRecompute := true, readsD := true }
  let len := if wide then 8 else 4
  memExec h n
    (fun v => judgeGlobal v.s v.c v.g v.st.acc v.st.walked v.st.chainFault (v.laneAccesses h fun i =>
      [{ lane := i, addr := v.memAddr true base idx 0 i, len, align := len, use := .atomic,
         data := v.dataBytes wide c.val i, cmp := v.dataBytes wide d.val i }]))
    fun v ps => ((v.enqueue (.cas ord sc (v.st.regIndex d.val) wide) true true ps (some 0)).advance n.len).put

/-- ATOMS. -/
def execAtoms (h : Hd) (op : AOp) (f : Fmt) (ord : Order) (d : VR) (base : MBase) (idx : BSrc) (c : VR) :
    State → Host.Outcome State Fault Refusal :=
  let n := { needM false .b32 [(0, d.val)] base idx [(3, c.val)] (some 2) with noRegion := true }
  memExec h n
    (fun v => judgeShared v.s v.c v.g (v.laneAccesses h fun i =>
      [{ lane := i, addr := v.memAddr false base idx 0 i, len := 4, align := 4, use := .atomic, data := v.wordBytes c.val i }]))
    fun v ps => ((v.enqueue (.atom op f ord .core (some (v.st.regIndex d.val))) true true ps (some 2)).advance n.len).put

/-- CASS. -/
def execCass (h : Hd) (wide : Bool) (ord : Order) (d : VR) (base : MBase) (idx : BSrc) (c : VR) :
    State → Host.Outcome State Fault Refusal :=
  let n := { needM false .b32 (wideRegs 0 wide d) base idx (wideRegs 3 wide c) (some 2) with
    noRegion := true, readsD := true }
  let len := if wide then 8 else 4
  memExec h n
    (fun v => judgeShared v.s v.c v.g (v.laneAccesses h fun i =>
      [{ lane := i, addr := v.memAddr false base idx 0 i, len, align := len, use := .atomic,
         data := v.dataBytes wide c.val i, cmp := v.dataBytes wide d.val i }]))
    fun v ps => ((v.enqueue (.cas ord .core (v.st.regIndex d.val) wide) true true ps (some 2)).advance n.len).put

/-- RED: an atomic that returns nothing, in the store queue. -/
def execRed (h : Hd) (op : AOp) (f : Fmt) (ord : Order) (sc : Scope) (base : MBase) (idx : BSrc) (c : VR) :
    State → Host.Outcome State Fault Refusal :=
  let n := { needM true .b32 [] base idx [(3, c.val)] (some 1) with noRegion := true, noRecompute := true }
  memExec h n
    (fun v => judgeGlobal v.s v.c v.g v.st.acc v.st.walked v.st.chainFault (v.laneAccesses h fun i =>
      [{ lane := i, addr := v.memAddr true base idx 0 i, len := 4, align := 4, use := .red, data := v.wordBytes c.val i }]))
    fun v ps => ((v.enqueue (.atom op f ord sc none) false true ps (some 1)).advance n.len).put

/-! ### Prefetch and maintenance (R287 to R289) -/

/-- PREF of one address: the line is brought into the home slice, and the L1 for .l1; a DROPPED tile's rebuild starts; an
address that would fault is ignored. -/
def prefOne (l2 : Bool) (s : State) (c : Ctx) (g : Group) (va : Nat) : State :=
  match checkSys s c .load va 1 with
  | .ok _ (.derived ..) => match tileUnready s c va with
    | some t => startBuild s c t g.build
    | none => s
  | .ok pa (.home ..) =>
      if isPoisoned s pa then s
      else match fillLine s (some c.id) va pa false false with
        | some s1 => if l2 || (l1Line (getCore s1 g.core) pa).isSome then s1 else l1Fill s1 g.core pa
        | none => s
  | _ => s

/-- PREF (R287). -/
def execPref (h : Hd) (l2 : Bool) (base : MBase) (idx : BSrc) : State → Host.Outcome State Fault Refusal :=
  let n := needM true .b32 [] base idx [] none
  strandExec h n fun v =>
    (maskLanes (v.st.acting h)).foldl (fun s i => prefOne l2 s v.c v.g (v.memAddr true base idx 0 i)) (v.advance n.len).put

/-- May a recompute group prefetch a range: is each 1 KiB piece of it within a source (R405)? -/
def rangeAllowed (l : List (Nat × Nat)) (base len : Nat) : Bool :=
  len == 0 || (List.range ((base + len - 1) / 1024 - base / 1024 + 1)).all fun k =>
    let lo := max base (base / 1024 * 1024 + 1024 * k)
    within l lo (min (base + len) (base / 1024 * 1024 + 1024 * k + 1024) - lo)

/-- The needs of an instruction that acts once on a pair A and B (R139). -/
def needPair (a : Nat) (b : BSrc) : Need := { port := .mem, len := b.len, sregs := [a, a + 1] ++ b.ss .b32 }

/-- PREFR (R288). In a recompute group its range must lie within the sources (R405). -/
def execPrefr (h : Hd) (a : Fin 256) (len : BSrc) : State → Host.Outcome State Fault Refusal :=
  let n := { needPair (2 * a.val) len with path := some 6 }
  onceExec h n fun v =>
    let base := (readSS v.g (2 * a.val)).toNat
    let size := (v.wordB len).toNat
    let ok := match v.g.build with
      | some key => rangeAllowed (sourceRanges v.s v.c key) base size
      | none => true
    match ok, v.g.build with
    | false, some key => abortBuild v.put key 0x12 2 0
    | _, _ => ((v.enqueue (.prefr base size (rangeTiles v.c base size)) true false
        [{ addr := base, pa := 0, place := .host, len := 0 }] (some 6)).advance n.len).put

/-- CMO (R289). -/
def execCmo (h : Hd) (op : CmoOp) (level : CmoLevel) (a : Fin 256) (len : BSrc) : State → Host.Outcome State Fault Refusal :=
  let n := { needPair (2 * a.val) len with path := some 1, noRegion := true, noRecompute := true }
  onceExec h n fun v =>
    ((v.enqueue (.cmo op level (readSS v.g (2 * a.val)).toNat (v.wordB len).toNat) false true [] (some 1)).advance n.len).put

/-! ### LDH (R290, R291) -/

/-- The lookups of an instruction's lanes: the lowest failing step decides; none where every lane has a row (R277,
R385). -/
def judgeLookups (handle : Nat) (l : List (Nat × Lookup)) : Option AccessOut :=
  let rank : Lookup → Nat
    | .row _ _ => 1000
    | .fault f => 100 * f.rank
    | .blocked r _ _ _ => 500 + r
    | .absent _ => 700
  let r := l.foldl (fun m e => min m (rank e.2)) 1000
  let at_ := l.filter fun e => rank e.2 == r
  match at_ with
  | (_, .fault f) :: _ => some (.trap f.cause (maskOf fun i => at_.any fun e => e.1 == i) (BitVec.ofNat 32 f.reason) 0)
  | (_, .blocked r cause extra a) :: _ =>
      some (if r = 43 then .page a else .trap cause (maskOf fun i => at_.any fun e => e.1 == i) extra a)
  | (_, .absent p) :: _ => some (.mapWord handle p)
  | _ => none

/-- The lookups of the acting lanes. -/
def View.lookups (v : View) (h : Hd) (a : Fin 256) (pos : BSrc) : List (Nat × Lookup) :=
  (maskLanes (v.st.acting h)).map fun i =>
    (i, kvLookup v.s v.c (readSS v.g (2 * a.val)).toNat (v.srcB .b32 pos i).code)

/-- The frames the lookups found. -/
def lookupFrames (l : List (Nat × Lookup)) : List Nat :=
  l.filterMap fun e => match e.2 with
    | .row _ f => some f
    | _ => none

/-- The needs of an instruction that looks positions up through a handle. -/
def needHandle (d : List (Nat × Nat)) (a : Fin 256) (pos : BSrc) (occ : Nat) : Need :=
  { port := .mem, len := pos.len, occ, named := d ++ pos.vs .b32, sregs := [2 * a.val, 2 * a.val + 1] ++ pos.ss .b32,
    path := some 0 }

/-- LDH. -/
def execLdh (h : Hd) (w : Width) (d : VR) (a : Fin 256) (pos : BSrc) (disp : BitVec 8) :
    State → Host.Outcome State Fault Refusal :=
  let n := needHandle (dataRegs 0 w d) a pos (if w = .b128 then 2 else 1)
  memExec h n
    (fun v =>
      let ls := v.lookups h a pos
      if v.st.acc.any (fun e => e.stalls) then .hold
      else match judgeLookups (readSS v.g (2 * a.val)).toNat ls with
      | some out => out
      | none => judgeGlobal v.s v.c v.g v.st.acc v.st.walked v.st.chainFault (ls.filterMap fun e => match e.2 with
          | .row r _ => some { lane := e.1, addr := add64 r (dispBytes disp w), len := w.bytes, align := w.bytes, use := .load }
          | _ => none))
    fun v ps => ((v.enqueue (.load w false false false (v.st.regIndex d.val)) true false ps (some 0)
      (lookupFrames (v.lookups h a pos))).advance n.len).put

end Sys2Proof.Machine
end

