-- ==== Sys2Proof/Machine/Kv.lean ====
section
/-! DEFINITION. Tables I: HTRANS, the instructions that change handles, maps and frames, and BELAY (R378 to R394). -/

namespace Sys2Proof.Machine

/-! ### HTRANS (R388) -/

/-- HTRANS: each acting lane's row address in the pair D, once every lookup has returned. -/
def execHtrans (h : Hd) (d : VR) (a : Fin 256) (pos : BSrc) : State → Host.Outcome State Fault Refusal :=
  let n := needHandle (vNames .f64 0 d) a pos 1
  memExec h n
    (fun v => if v.st.acc.any (fun e => e.stalls) then .hold
              else (judgeLookups (readSS v.g (2 * a.val)).toNat (v.lookups h a pos)).getD (.parts []))
    fun v _ =>
      let ws := (v.lookups h a pos).flatMap fun e => match e.2 with
        | .row r _ => (List.range 2).map fun k =>
            ({ tile := v.st.tileOf d.val, reg := (d.val + k) % 8, lane := e.1, word := BitVec.ofNat 32 (r / 2 ^ (32 * k)),
               tag := 0xFF } : VWrite)
        | _ => []
      ((v.enqueue (.lookup ws) true false [] (some 0)).advance n.len).put

/-! ### The changing instructions (R389) -/

/-- What a changing instruction does: a precise fault, a wait for the pager, or a new state and uniform registers. -/
inductive KvOut
  | fault (cause reason : Nat)
  | wait (page : Nat)
  | done (s : State) (ss : List (Nat × Word))

/-- The frame-table entries that frame numbers name. -/
def frameUses (s : State) (c : Ctx) (l : List Nat) : List (Use × Nat) :=
  (l.filter fun f => decide (f < kvFtcount s c)).map fun f => (.atomic, frameAt s c f)

/-- The frame-table entries that map words name. -/
def wordUses (s : State) (c : Ctx) (l : List Nat) : List (Use × Nat) := frameUses s c (l.filterMap (wordFrame s c))

/-- A changing instruction: performed whole, as an atomic of order .acqrel at scope .dev, when the strand's earlier
accesses have been performed (R389). `touch` lists what it reads and changes in the tables, which R251 must allow (log 120). Its
uniform registers land in the next clock (R131; log 121). -/
def kvExec (h : Hd) (a : Fin 256) (b : BSrc) (ss : List Nat) (touch : View → Nat → HEntry → List (Use × Nat))
    (f : View → Nat → HEntry → KvOut) : State → Host.Outcome State Fault Refusal :=
  let n := { needPair (2 * a.val) b with
    sregs := [2 * a.val, 2 * a.val + 1] ++ b.ss .b32 ++ ss, path := some 1, noRegion := true, noRecompute := true, drained := true }
  onceExec h n fun v =>
    let handle := (readSS v.g (2 * a.val)).toNat
    let stop := fun (r : Verdict) => match r with
      | .fail 43 _ _ va => (v.waitAt (.page va) n.len).put
      | .fail 44 _ _ va => (v.waitAt (.record va) n.len).put
      | .fail _ cause extra va => v.trapAt cause n.len (v.st.acting h) extra va
      | .ok _ _ | .miss _ => v.put
    match entryFault v.s v.c handle, checkHandle v.s v.c handle with
    | some r, _ => stop r
    | none, .error e => v.trapAt e.cause n.len (v.st.acting h) (BitVec.ofNat 32 e.reason) 0
    | none, .ok e => match tableFault v.s v.c (touch v handle e) with
      | some r => stop r
      | none => match f v handle e with
        | .fault cause reason => v.trapAt cause n.len (v.st.acting h) (BitVec.ofNat 32 reason) 0
        | .wait p => (v.waitAt (.mapWord handle p) n.len).put
        | .done s ss => ((({ v with s := acquireL1 s v.g.core .dev } : View).fly 1 [] ss).advance n.len).put

/-- A pair of uniform registers set to a 64-bit number. -/
def pairS (n x : Nat) : List (Nat × Word) := [(n, BitVec.ofNat 32 x), (n + 1, BitVec.ofNat 32 (x / 2 ^ 32))]

/-- LEN written. -/
def setLen (s : State) (c : Ctx) (e : HEntry) (len : Nat) : State := sysWrite s c (e.at_ + 16) (leBytes 4 len)

/-- KVAPP's effect (R390). -/
def kvappOut (v : View) (sx handle : Nat) (e : HEntry) : KvOut :=
  let pos := e.len
  let p := pos / 16
  let finish := fun (s : State) (f : Nat) =>
    KvOut.done (setLen (setFill s v.c f (pos % 16 + 1)) v.c e (pos + 1)) (pairS sx (rowAddr s v.c e f pos))
  if handleBound handle ≤ p || e.capp ≤ p then .fault 0x0E 1
  else if pos % 16 = 0 then
    match popFrame v.s v.c 0 with
    | none => .done v.s (pairS sx 0)
    | some (f, s) => finish (setMapWord s v.c e p f) f
  else
    let w := mapWordAt v.s v.c e p
    if absentWord w then .wait p
    else if kvFtcount v.s v.c ≤ w then .fault 0x0D 4
    else if 1 < frameRef (readFrame v.s v.c w) then .fault 0x0F (p % 2 ^ 24)
    else finish v.s w

/-- What KVAPP reads and changes. -/
def kvappTouch (v : View) (handle : Nat) (e : HEntry) : List (Use × Nat) :=
  let p := e.len / 16
  if handleBound handle ≤ p || e.capp ≤ p then []
  else (.atomic, e.at_) :: (.atomic, e.wordAt p) ::
    if e.len % 16 = 0 then frameUses v.s v.c [kvFreehead v.s v.c] else wordUses v.s v.c [mapWordAt v.s v.c e p]

/-- KVAPP. -/
def execKvapp (h : Hd) (sx : SR) (a : Fin 256) : State → Host.Outcome State Fault Refusal :=
  kvExec h a (.imm8 0) [sx.val, sx.val + 1] kvappTouch fun v handle e => kvappOut v sx.val handle e

/-- The map words of a sequence's pages. -/
def pageWords (s : State) (c : Ctx) (e : HEntry) : List Nat := (List.range e.pages).map fun p => mapWordAt s c e p

/-- KVFORK's effect on the entry of a destination index (R391). -/
def kvforkOut (v : View) (sx dst : Nat) (e : HEntry) : KvOut :=
  if kvHtcount v.s v.c ≤ dst then .fault 0x0D 2
  else
    let t := readHEntry v.s v.c dst
    let words := pageWords v.s v.c e
    if t.live then .fault 0x0D 5
    else if t.capp < e.pages then .fault 0x0E 1
    else if words.any fun w => !absentWord w && decide (kvFtcount v.s v.c ≤ w) then .fault 0x0D 4
    else if words.any fun w => !absentWord w && decide (65535 < frameRef (readFrame v.s v.c w) + words.count w) then .fault 0x0E 3
    else
      let s1 := words.foldl (fun s w => match wordFrame s v.c w with
        | some f => setRef s v.c f (frameRef (readFrame s v.c f) + 1)
        | none => s) v.s
      let s2 := words.zipIdx.foldl (fun s w => setMapWord s v.c t w.2 w.1) s1
      let s3 := setLen s2 v.c t e.len
      let s4 := sysWrite s3 v.c (t.at_ + 8) (leBytes 8 (t.w1 + 2 ^ 36))
      .done s4 (pairS sx (v.c.tenant * 2 ^ 56 + t.gen * 2 ^ 44 + dst * 2 ^ 20 + t.capp % 2 ^ 20))

/-- The map words of a sequence's pages, to be read or changed. -/
def HEntry.wordUses (e : HEntry) (u : Use) : List (Use × Nat) := (List.range e.pages).map fun p => (u, e.wordAt p)

/-- What KVFORK reads and changes. -/
def kvforkTouch (v : View) (dst : Nat) (e : HEntry) : List (Use × Nat) :=
  if kvHtcount v.s v.c ≤ dst then []
  else
    let t := readHEntry v.s v.c dst
    (.atomic, t.at_) :: if t.live || decide (t.capp < e.pages) then [] else
      e.wordUses .load ++ wordUses v.s v.c (pageWords v.s v.c e) ++ (List.range e.pages).map fun p => (.store, t.wordAt p)

/-- KVFORK. -/
def execKvfork (h : Hd) (sx : SR) (a : Fin 256) (m : SR) : State → Host.Outcome State Fault Refusal :=
  let dst := fun (v : View) => bits (readS v.g m.val).toNat 23 0
  kvExec h a (.s m) [sx.val, sx.val + 1] (fun v _ e => kvforkTouch v (dst v) e) fun v _ e => kvforkOut v sx.val (dst v) e

/-- KVREL's effect (R392). -/
def kvrelOut (v : View) (e : HEntry) : KvOut :=
  let w1 := e.w1 % 2 ^ 24 + (e.gen + 1) % 4096 * 2 ^ 24 + e.w1 / 2 ^ 37 * 2 ^ 37
  let s1 := setLen (sysWrite v.s v.c (e.at_ + 8) (leBytes 8 w1)) v.c e 0
  .done ((pageWords v.s v.c e).foldl (fun s w => releaseWord s v.c w) s1) []

/-- KVREL. -/
def execKvrel (h : Hd) (a : Fin 256) : State → Host.Outcome State Fault Refusal :=
  kvExec h a (.imm8 0) [] (fun v _ e => (.atomic, e.at_) :: (e.wordUses .load ++ wordUses v.s v.c (pageWords v.s v.c e)))
    fun v _ e => kvrelOut v e

/-- A frame that KVSET.map or KVMOVE may name: below FTCOUNT and not free (R393, R394). -/
def frameUsable (s : State) (c : Ctx) (f : Nat) : Bool := decide (f < kvFtcount s c) && !frameFree (readFrame s c f)

/-- What KVSET of page p reads and changes: the map word, the frame it names, and another one. -/
def kvsetTouch (v : View) (p : Nat) (e : HEntry) (other : List Nat) : List (Use × Nat) :=
  if e.capp ≤ p then []
  else (.atomic, e.wordAt p) :: (wordUses v.s v.c [mapWordAt v.s v.c e p] ++ frameUses v.s v.c other)

/-- KVSET.map's effect (R393). -/
def kvsetMapOut (v : View) (f p : Nat) (e : HEntry) : KvOut :=
  if e.capp ≤ p then .fault 0x0E 1
  else if !frameUsable v.s v.c f then .fault 0x0D 4
  else if frameRef (readFrame v.s v.c f) = 65535 then .fault 0x0E 3
  else
    let old := mapWordAt v.s v.c e p
    let s1 := setRef v.s v.c f (frameRef (readFrame v.s v.c f) + 1)
    .done (releaseWord (setMapWord s1 v.c e p f) v.c old) []

/-- KVSET.map. -/
def execKvsetMap (h : Hd) (sx : SR) (a : Fin 256) (p : BSrc) : State → Host.Outcome State Fault Refusal :=
  let f := fun (v : View) => (readS v.g sx.val).toNat
  kvExec h a p [sx.val] (fun v _ e => kvsetTouch v (v.wordB p).toNat e [f v]) fun v _ e => kvsetMapOut v (f v) (v.wordB p).toNat e

/-- KVSET.new's effect (R393). -/
def kvsetNewOut (v : View) (sx p : Nat) (e : HEntry) : KvOut :=
  if e.capp ≤ p then .fault 0x0E 1
  else
    let old := mapWordAt v.s v.c e p
    let fill := match wordFrame v.s v.c old with
      | some f => frameFill (readFrame v.s v.c f)
      | none => 0
    match popFrame v.s v.c fill with
    | none => .done v.s (pairS sx (2 ^ 64 - 1))
    | some (f, s) => .done (releaseWord (setMapWord s v.c e p f) v.c old) (pairS sx (f + old * 2 ^ 32))

/-- KVSET.new. -/
def execKvsetNew (h : Hd) (sx : SR) (a : Fin 256) (p : BSrc) : State → Host.Outcome State Fault Refusal :=
  kvExec h a p [sx.val, sx.val + 1] (fun v _ e => kvsetTouch v (v.wordB p).toNat e [kvFreehead v.s v.c])
    fun v _ e => kvsetNewOut v sx.val (v.wordB p).toNat e

/-- KVSET.absent's effect (R393). -/
def kvsetAbsentOut (v : View) (p : Nat) (e : HEntry) : KvOut :=
  if e.capp ≤ p then .fault 0x0E 1
  else .done (releaseWord (setMapWord v.s v.c e p (2 ^ 31)) v.c (mapWordAt v.s v.c e p)) []

/-- KVSET.absent. -/
def execKvsetAbsent (h : Hd) (a : Fin 256) (p : BSrc) : State → Host.Outcome State Fault Refusal :=
  kvExec h a p [] (fun v _ e => kvsetTouch v (v.wordB p).toNat e []) fun v _ e => kvsetAbsentOut v (v.wordB p).toNat e

/-- KVMOVE's effect (R394). -/
def kvmoveOut (v : View) (fa fb : Nat) (e : HEntry) : KvOut :=
  if !frameUsable v.s v.c fa || !frameUsable v.s v.c fb || fa == fb then .fault 0x0D 4
  else
    let words := pageWords v.s v.c e
    let n := words.count fa
    let wa := readFrame v.s v.c fa
    let wb := readFrame v.s v.c fb
    if 65535 < frameRef wb + n then .fault 0x0E 3
    else
      let s1 := words.zipIdx.foldl (fun s w => if w.1 = fa then setMapWord s v.c e w.2 fb else s) v.s
      let s2 := setRef (setFill s1 v.c fb (max (frameFill wa) (frameFill wb))) v.c fb (frameRef wb + n)
      .done (lowerRef s2 v.c fa n) []

/-- KVMOVE. -/
def execKvmove (h : Hd) (sx : SR) (a : Fin 256) : State → Host.Outcome State Fault Refusal :=
  let f := fun (v : View) (k : Nat) => (readS v.g (sx.val + k)).toNat
  kvExec h a (.imm8 0) [sx.val, sx.val + 1] (fun v _ e => frameUses v.s v.c [f v 0, f v 1] ++ e.wordUses .atomic)
    fun v _ e => kvmoveOut v (f v 0) (f v 1) e

/-! ### BELAY (R378 to R380) -/

/-- The 4 KiB units that overlap a range. -/
def unitsOf (base len : Nat) : List Nat :=
  if len = 0 then [] else
  (List.range ((base + len - 1) / 4096 - base / 4096 + 1)).map fun k => base / 4096 * 4096 + 4096 * k

/-- The count of a granule. -/
def belayCount (c : Ctx) (g : Nat) : Nat := (aget c.belay g).getD 0

/-- A context with a granule's count replaced; a count of 0 leaves the table. -/
def setBelay (c : Ctx) (g n : Nat) : Ctx := { c with belay := if n = 0 then adel c.belay g else aset c.belay g n }

/-- The address of the leaf entry that maps an address. -/
def leafEntry (m : Memory) (va : Nat) : List (Nat × Nat × Nat) → Nat → Option Nat
  | [], _ => none
  | (lv, hi, lo) :: rest, tbl =>
      let at_ := tbl + 8 * bits va hi lo
      let e := readNat m at_ 8
      if !tbit e 0 then none
      else if tbit e 1 || lv == 3 then some at_
      else leafEntry m va rest (bits e 47 8 * 256)

/-- The base and size of the page that maps an address. -/
def pageOf (s : State) (c : Ctx) (va : Nat) : Nat × Nat :=
  match walk s c va with
  | .leaf _ true _ _ _ _ _ => (va / 2097152 * 2097152, 2097152)
  | _ => (va / 65536 * 65536, 65536)

/-- BLY of the leaf that maps a granule is set when the page holds a belayed granule, else cleared (R378). -/
def settleBly (s : State) (c : Ctx) (va : Nat) : State :=
  match leafEntry s.mem va walkTable c.ptroot with
  | none => s
  | some pa =>
    let pg := pageOf s c va
    let on := c.belay.any fun e => decide (pg.1 ≤ e.1) && decide (e.1 < pg.1 + pg.2)
    let e := readNat s.mem pa 8
    let e' := e % 2 ^ 6 + b2n on * 2 ^ 6 + e / 2 ^ 7 * 2 ^ 7
    if e' = e then s else writeLine s none pa pa (leBytes 8 e')

/-- Every core's TLB entry for the page of a granule is dropped, its write permission with it (R379). -/
def dropTlbPage (s : State) (c : Ctx) (va : Nat) : State :=
  { s with cores := s.cores.map fun e => (e.1, { e.2 with tlb := e.2.tlb.filter fun t =>
      !(t.ctx == c.id && (t.base == va / 65536 * 65536 || t.base == va / 2097152 * 2097152)) }) }

/-- The granule that decides a BELAY's fault by steps 2 to 5 of R251: of those that fail at the lowest step, the lowest (R375;
log 106). -/
def belayCheck (v : View) (units : List Nat) : Option Verdict :=
  let fails := (units.map fun g => checkSys v.s v.c .belay g 1).filterMap fun r => match r with
    | .fail q _ _ _ => some (q, r)
    | _ => none
  let low := fails.foldl (fun m e => min m e.1) 100
  (fails.find? fun e => e.1 == low).map (·.2)

/-- The needs of BELAY, RETIRE and SCHED. -/
def needTable (a : Fin 256) (b : BSrc) : Need :=
  { needPair (2 * a.val) b with path := some 1, noRegion := true, noRecompute := true, drained := true }

/-- BELAY with the new count of a granule, none where it fails (R380). The counts change as it issues; Pd lands, and the
path counter falls, when the belays have taken effect. -/
def belayExec (h : Hd) (pd : PR) (a : Fin 256) (b : BSrc) (add : Bool) : State → Host.Outcome State Fault Refusal :=
  let n := { needTable a b with preds := [pd] }
  onceExec h n fun v =>
    let base := (readSS v.g (2 * a.val)).toNat
    let len := (v.wordB b).toNat
    let units := unitsOf base len
    match belayCheck v units with
    | some (.fail 43 _ _ va) => (v.waitAt (.page va) n.len).put
    | some (.fail 44 _ _ va) => (v.waitAt (.record va) n.len).put
    | some (.fail _ cause extra va) => v.trapAt cause n.len (v.st.acting h) extra va
    | _ =>
      let fresh := units.filter fun g => belayCount v.c g == 0
      let fail := decide (2 ^ 20 < len) ||
        (if add then (units.any fun g => belayCount v.c g == 65535) || decide (v.c.belaycap < v.c.belay.length + fresh.length)
         else !fresh.isEmpty)
      if fail then (({ v with st := v.st.setPredEm pd true } : View).advance n.len).put
      else
        let c := units.foldl (fun c g => setBelay c g (if add then belayCount c g + 1 else belayCount c g - 1)) v.c
        let s1 := units.foldl (fun s g => settleBly s c g) v.s
        if add then
          let seq := s1.nextSeq
          let s2 := fresh.foldl (fun s g => dropTlbPage s c g) { s1 with nextSeq := seq + 1 }
          (({ v with s := s2, c, g := v.g.pathRaise 1 seq } : View).waitAt (.belay pd seq base len) n.len).put
        else (({ v with s := s1, c, st := v.st.setPredEm pd false } : View).advance n.len).put

/-- BELAY.add. -/
def execBelayAdd (h : Hd) (pd : PR) (a : Fin 256) (b : BSrc) : State → Host.Outcome State Fault Refusal := belayExec h pd a b true

/-- BELAY.drop. -/
def execBelayDrop (h : Hd) (pd : PR) (a : Fin 256) (b : BSrc) : State → Host.Outcome State Fault Refusal := belayExec h pd a b false

end Sys2Proof.Machine
end

