-- ==== Sys2Proof/Machine/Recipe.lean ====
section
/-! DEFINITION. Tables II on a strand: RETIRE, RCPQ, SCHED and TICK (R409 to R415). -/

namespace Sys2Proof.Machine

/-- An instruction that acts once, and that has not issued while `stall` holds. -/
def stallExec (h : Hd) (n : Need) (stall : View → Bool) (body : View → State) (s : State) :
    Host.Outcome State Fault Refusal :=
  match curView s with
  | none => .fault .noCurrentStrand
  | some v => if v.canIssue h n then
      .next ((v.charge n).gate h n fun vc =>
        if !v.st.actsOnce h then (vc.advance n.len).put else if stall v then v.put else body vc)
    else .next s

/-! ### RETIRE (R409) -/

/-- Do all units lie in one derived region? -/
def oneRegion (c : Ctx) (units : List Nat) : Bool :=
  match units with
  | [] => true
  | u :: us => match regionAt c u with
    | some (r, _) => us.all fun x => (regionAt c x).map (·.1) == some r
    | none => false

/-- A tile is RETIRED: its lines are invalidated. -/
def retireTile (s : State) (c : Ctx) (va : Nat) : State :=
  match regionAt c va with
  | none => s
  | some (r, n) =>
      setRecord { s with l2 := s.l2.filter fun l => !(l.ctx == some c.id && l.tile == some va)
                         dtiles := s.dtiles.filter fun d => !(d.ctx == c.id && d.va == va) } c r n rsRetired 0 0

/-- The state of the record of a tile, ABSENT where there is none. -/
def tileState (s : State) (c : Ctx) (va : Nat) : Nat :=
  match regionAt c va with
  | some (r, n) => recState s c r n
  | none => rsAbsent

/-- The units RETIRE acts on, and whether it fails. -/
def retireUnits (v : View) (a : Fin 256) (b : BSrc) (rcp : Bool) : List Nat × Bool :=
  let len := (v.wordB b).toNat
  let units := unitsOf (readSS v.g (2 * a.val)).toNat len
  (units, decide (2 ^ 30 < len) || (if rcp then !oneRegion v.c units else units.any fun u => (regionAt v.c u).isSome))

/-- Tiles are RETIRED in order, up to one that is BUILDING, or that an instruction or slot still waits for (R316; log 117): the state, and
the tiles left. -/
def retireTiles (s : State) (c : Ctx) : List Nat → State × List Nat
  | [] => (s, [])
  | va :: rest => if tileState s c va == rsBuilding || (tileState s c va == rsPresent && tileAwaited s c.id va) then (s, va :: rest)
    else retireTiles (retireTile s c va) c rest

/-- A RETIRE of tiles goes on: it is over when every tile has changed, which Pd and the global-stores counter show (R409). -/
def View.retire (v : View) (pd : PR) (seq len : Nat) (units : List Nat) : State :=
  match retireTiles v.s v.c units with
  | (s, []) => (({ v with s, g := v.g.pathLower 1 seq, st := { v.st.setPredEm pd false with wait := none } } : View).advance len).put
  | (s, left) =>
      let since := (v.st.wait.map (·.since)).getD v.s.clock
      { v with s, st := { v.st with wait := some { kind := .retire pd seq left, since, len } } }.put

/-- RETIRE.rcp: its counter is up from issue until every tile has changed; it waits while one is BUILDING. -/
def execRetireRcp (h : Hd) (pd : PR) (a : Fin 256) (b : BSrc) : State → Host.Outcome State Fault Refusal :=
  let n := { needTable a b with preds := [pd] }
  onceExec h n fun v =>
    let u := retireUnits v a b true
    let seq := v.s.nextSeq
    if u.2 then (({ v with st := v.st.setPredEm pd true } : View).advance n.len).put
    else ({ v with s := { v.s with nextSeq := seq + 1 }, g := v.g.pathRaise 1 seq } : View).retire pd seq n.len u.1

/-- RETIRE.bly. -/
def execRetireBly (h : Hd) (pd : PR) (a : Fin 256) (b : BSrc) : State → Host.Outcome State Fault Refusal :=
  let n := { needTable a b with preds := [pd] }
  onceExec h n fun v =>
    let u := retireUnits v a b false
    let st := v.st.setPredEm pd u.2
    if u.2 then (({ v with st } : View).advance n.len).put
    else
      let c := u.1.foldl (fun c g => setBelay c g 0) v.c
      let s := (u.1.filter fun g => belayCount v.c g != 0).foldl (fun s g => settleBly s c g) v.s
      (({ v with s, c, st } : View).advance n.len).put

/-! ### RCPQ (R410) -/

/-- A lane's read of the record of the tile that holds an address: W0, or W2 for .step. A lane whose address lies in no
region reads nothing. -/
def rcpqPart (s : State) (c : Ctx) (step : Bool) (lane va : Nat) : Part :=
  match regionAt c va with
  | none => { lane, addr := va, pa := 0, place := .host, len := 0, done := true }
  | some (r, n) =>
      let at_ := recordAddr r n + if step then 16 else 0
      match sysTrans s c at_ with
      | some pa => { lane, addr := at_, pa, place := placeOf pa, len := 8 }
      | none => ({ lane, addr := at_, pa := 0, place := .host, len := 8 } : Part).guess (s.free + 2 * lane)

/-- A lane of RCPQ. An address with an uncorrectable error raises no fault: what the lane reads is a free value (R410; log
119). -/
def View.rcpqLane (v : View) (step : Bool) (a : VR) (i : Nat) : Part :=
  if (v.badLanes a.val v.st.em ||| v.badLanes (a.val + 1) v.st.em).getLsbD i then
    ({ lane := i, addr := 0, pa := 0, place := .host, len := 8 } : Part).guess (v.s.free + 2 * i)
  else rcpqPart v.s v.c step i (v.srcV .f64 a.val i).code

/-- The page of a record that a lane of RCPQ would read, where it is absent (R375). -/
def View.recordAway (v : View) (h : Hd) (a : VR) : Option Nat :=
  (maskLanes (v.st.acting h)).findSome? fun i => match regionAt v.c (v.srcV .f64 a.val i).code with
    | none => none
    | some (r, n) => match sysCheck v.s v.c .load (recordAddr r n) with
      | .fail rank _ _ va => if awayRank rank then some va else none
      | _ => none

/-- RCPQ: reads through the load queue at the records' homes, with no fault of its own (R410). -/
def rcpqExec (h : Hd) (step : Bool) (d a : VR) : State → Host.Outcome State Fault Refusal :=
  let n : Need := { port := .mem, len := 8, named := (if step then vNames .f64 0 d else [(0, d.val)]) ++ vNames .f64 1 a,
                    path := some 0, noRecompute := true, unchecked := [1], perLane := true }
  memExec h n
    (fun v => match v.recordAway h a with
      | some va => .record va
      | none => if v.st.acc.any (fun e => e.stalls) then .hold
                else .parts ((maskLanes (v.st.acting h)).map fun i => v.rcpqLane step a i))
    fun v ps => ((({ v with s := { v.s with free := v.s.free + 64 } } : View).enqueue (.rcpq step (v.st.regIndex d.val)) true false
      ps (some 0)).advance n.len).put

/-- RCPQ.state. -/
def execRcpqState (h : Hd) (d a : VR) : State → Host.Outcome State Fault Refusal := rcpqExec h false d a

/-- RCPQ.step. -/
def execRcpqStep (h : Hd) (d a : VR) : State → Host.Outcome State Fault Refusal := rcpqExec h true d a

/-! ### SCHED (R411, R413) -/

/-- A schedule entry from its four words, if it keeps R411. -/
def schedEntry (w0 size live dead : Nat) : Option SchedEntry :=
  let base := bits w0 55 0
  let cls := bits w0 57 56
  if base % 128 ≠ 0 || cls = 3 || w0 / 2 ^ 58 ≠ 0 || size = 0 || size % 128 ≠ 0 || dead < live then none
  else some { base, cls, size, live, dead }

/-- Do no two ranges of a list overlap? -/
def schedDisjoint : List SchedEntry → Bool
  | [] => true
  | e :: es => (es.all fun x => !overlaps e.base e.size x.base x.size) && schedDisjoint es

/-- What reading n bytes at an address for the device's own use gives: a tile that is not PRESENT is named with the address. -/
inductive ReadSys
  | bytes (l : List Byte)
  | fail (rank cause : Nat) (extra : Word) (addr : Nat)
  | tile (va addr : Nat)
  deriving DecidableEq, Repr

/-- n bytes read at their home under the checks of R251. -/
def readSys (s : State) (c : Ctx) (use : Use) (va n : Nat) : ReadSys :=
  match checkSys s c use va 1 with
  | .ok pa pl => match pl with
    | .derived .. => match tileUnready s c va with
      | some t => .tile t va
      | none => .bytes ((List.range n).map fun k => tileByte s c.id (granule va) (va % 4096 + k))
    | _ => if isPoisoned s pa then .fail 70 0x0A (poisonExtra s.fresh pa) va else .bytes (readBytes s.mem pa n)
  | .fail r cause extra a => .fail r cause extra a
  | .miss p => .fail 43 0x07 0 (p * 65536)

/-- The first read of a list that does not give bytes. -/
def readFailure (l : List ReadSys) : Option ReadSys :=
  l.find? fun r => match r with
    | .bytes _ => false
    | _ => true

/-- The bytes of a list of reads. -/
def readAll (l : List ReadSys) : List Byte :=
  l.flatMap fun r => match r with
    | .bytes b => b
    | _ => []

/-- An instruction that acts once meets, at an address, a tile that is not PRESENT: it waits, or takes the fault its chain left
(R406). -/
def View.meetOrFault (v : View) (h : Hd) (n : Need) (va addr : Nat) : State :=
  match v.st.chainFault with
  | some f => if f.va = va then v.settled.trapAt f.cause n.len (v.st.acting h) f.extra addr
              else meetTile (v.waitAt (.tile va) n.len).put v.c v.g.build va
  | none => meetTile (v.waitAt (.tile va) n.len).put v.c v.g.build va

/-- SCHED. -/
def execSched (h : Hd) (pd : PR) (a : Fin 256) (b : BSrc) : State → Host.Outcome State Fault Refusal :=
  let n := { needTable a b with path := none, preds := [pd] }
  onceExec h n fun v =>
    let at_ := (readSS v.g (2 * a.val)).toNat
    let count := (v.wordB b).toNat
    let refuse := (({ v with st := v.st.setPredEm pd true } : View).advance n.len).put
    if at_ % 32 ≠ 0 then v.trapAt 0x06 n.len (v.st.acting h) 0 at_
    else if 64 < count then refuse
    else
      let rs := (List.range count).map fun k => readSys v.s v.c .load (add64 at_ (32 * k)) 32
      match readFailure rs with
      | some (.fail 43 _ _ va) => (v.waitAt (.page va) n.len).put
      | some (.fail 44 _ _ va) => (v.waitAt (.record va) n.len).put
      | some (.fail _ cause extra va) => v.trapAt cause n.len (v.st.acting h) extra va
      | some (.tile t va) => v.meetOrFault h n t va
      | _ =>
        let m := writeBytes [] 0 (readAll rs)
        let es := (List.range count).map fun k =>
          schedEntry (readNat m (32 * k) 8) (readNat m (32 * k + 8) 8) (readNat m (32 * k + 16) 8) (readNat m (32 * k + 24) 8)
        if es.any (·.isNone) || !schedDisjoint (es.filterMap id) then refuse
        else (({ v with c := { v.c with sched := es.filterMap id } } : View).waitAt (.sched pd) n.len).put

/-! ### TICK (R414, R415) -/

/-- STEP := STEP + 1; the clock of the oldest TICK that the slices have not taken up is kept. -/
def Ctx.tick (c : Ctx) (clock : Nat) : Ctx :=
  { c with step := c.step + 1, stepAt := if c.step = c.stepL2 then clock else c.stepAt }

/-- TICK: a release at device scope, then STEP := STEP + 1. -/
def execTick (h : Hd) : State → Host.Outcome State Fault Refusal :=
  onceExec h { port := .ctl, len := 8, noRegion := true, noRecompute := true, drained := true } fun v =>
    (({ v with c := v.c.tick v.s.clock } : View).advance 8).put

end Sys2Proof.Machine
end

