-- ==== Sys2Proof/Machine/Order.lean ====
section
/-! DEFINITION. MARK, FENCE, barriers, cleats, WAITP, the score table, CNTRD and CNTCLR (R306, R310, R416 to R431), and
restartable regions (R320, R321). -/

namespace Sys2Proof.Machine

/-- An instruction with a check made at issue like those of R56, before every other. -/
def checkedExec (h : Hd) (n : Need) (bad : View → Bool) (body : View → State) (s : State) :
    Host.Outcome State Fault Refusal :=
  match curView s with
  | none => .fault .noCurrentStrand
  | some v => if v.canIssue h n then
      .next (if bad v then (v.charge n).illegal h n.len
             else (v.charge n).gate h n fun v => if v.st.actsOnce h then body v else (v.advance n.len).put)
    else .next s

/-- A wait of R441's list: one that does not complete in the clock it issues unmasks the strand's handler as that clock
ends. -/
def View.block (v : View) (k : WaitKind) (len : Nat) : View := v.yielding.waitAt k len

/-! ### MARK and FENCE (R306, R310, R427) -/

/-- MARK. -/
def execMark (h : Hd) : State → Host.Outcome State Fault Refusal :=
  onceExec h { port := .ctl, len := 8 } fun v => ((v.enqueue .mark true true [] none).advance 8).put

/-- FENCE. -/
def execFence (h : Hd) (sc : Scope) : State → Host.Outcome State Fault Refusal :=
  onceExec h { port := .ctl, len := 8 } fun v => ((v.enqueue (.fence sc) true true [] none).advance 8).put

/-! ### Barriers (R425, R426) -/

/-- A barrier after an arrival with an expected count, which the phase's first arrival sets. -/
def Barrier.arrive (b : Barrier) (n : Nat) : Barrier := { b with arr := b.arr + 1, exp := if b.arr = 0 then n else b.exp }

/-- A group's barrier. -/
def Group.barrier (g : Group) (b : Nat) : Barrier := (g.barriers[b]?).getD {}

/-- A group after an arrival on barrier b. -/
def Group.arriveBar (g : Group) (b n : Nat) : Group := { g with barriers := g.barriers.setIfInBounds b ((g.barrier b).arrive n) }

/-- Has a phase of the barrier completed in this clock? An arrival of the next phase comes in a later one (R425; log 110). -/
def View.barDone (v : View) (b : Nat) : Bool := (v.g.barrier b).doneAt == some v.s.clock

/-- The needs of BAR: it arrives after every earlier access of the strand has been performed. -/
def needBar (n : BSrc) : Need := { port := .ctl, len := n.len, sregs := n.ss .b32, noRegion := true, drained := true }

/-- BAR: it arrives, unless it did before a stop, and waits for the phase it arrived in (R426, R446). -/
def execBarSync (h : Hd) (b : Fin 16) (n : BSrc) : State → Host.Outcome State Fault Refusal :=
  stallExec h (needBar n) (fun v => v.barDone b.val) fun v =>
    let k := (v.wordB n).toNat % 64
    let mine := fun (x : Nat × Bool × DWord) => x.1 == b.val && x.2.2 == v.st.pc
    if 32 < k then v.illegal h n.len
    else match v.st.barArrived.find? mine with
      | some (_, true, _) =>
          (({ v with st := { v.st with barArrived := v.st.barArrived.filter fun x => !mine x } } : View).advance n.len).put
      | some (_, false, _) => (v.block (.bar b.val) n.len).put
      | none => (({ v with g := v.g.arriveBar b.val k
                           st := { v.st with barArrived := (b.val, false, v.st.pc) :: v.st.barArrived } } : View).block
          (.bar b.val) n.len).put

/-- BAR.arrive. -/
def execBarArrive (h : Hd) (b : Fin 16) (n : BSrc) : State → Host.Outcome State Fault Refusal :=
  stallExec h (needBar n) (fun v => v.barDone b.val) fun v =>
    let k := (v.wordB n).toNat % 64
    if 32 < k then v.illegal h n.len
    else (({ v with g := v.g.arriveBar b.val k } : View).advance n.len).put

/-! ### Cleats (R420 to R423) -/

/-- The needs of CLARM, CLARV and CLWAIT. -/
def needCleat (n : BSrc) : Need := { port := .ctl, len := n.len, sregs := n.ss .b32 }

/-- Have a cleat's arrivals of this clock been applied already? A CLARM comes before them (R422; log 110). -/
def View.cleatSettled (v : View) (c : Nat) : Bool := ((getCore v.s v.g.core).cleat c).settledAt == some v.s.clock

/-- CLARM. -/
def execClarm (h : Hd) (pd : PR) (c : Fin 32) (count : BSrc) : State → Host.Outcome State Fault Refusal :=
  stallExec h { needCleat count with noRegion := true, preds := [pd] } (fun v => v.cleatSettled c.val) fun v =>
    let co := getCore v.s v.g.core
    let k := co.cleat c.val
    let n := (v.wordB count).toNat % 4096
    let fail := (k.owner.any fun o => o != v.g.gid) || n == 0
    let k' := if fail then k else { k with owner := some v.g.gid, armed := true, expect := n, count := 0, phase := false
                                           coll := false, lines := [] }
    (({ v with s := putCore v.s v.g.core (co.putCleat c.val k'), st := v.st.setPredEm pd fail } : View).advance count.len).put

/-- CLARM.free. -/
def execClarmFree (h : Hd) (pd : PR) (c : Fin 32) : State → Host.Outcome State Fault Refusal :=
  stallExec h { needCleat (.imm8 0) with noRegion := true, preds := [pd] } (fun v => v.cleatSettled c.val) fun v =>
    let co := getCore v.s v.g.core
    let k := co.cleat c.val
    let fail := k.owner != some v.g.gid
    let k' := if fail then k else { k with owner := none, armed := false }
    (({ v with s := putCore v.s v.g.core (co.putCleat c.val k'), st := v.st.setPredEm pd fail } : View).advance 8).put

/-- CLARV: a release, then an arrival; a position outside the gang, or another group's with .core, is illegal. -/
def execClarv (h : Hd) (gang : Bool) (c : Fin 32) (pos : Fin 16) (n : BSrc) : State → Host.Outcome State Fault Refusal :=
  checkedExec h { needCleat n with noRegion := true, drained := true }
    (fun v => decide (v.g.gangsize ≤ pos.val) || (!gang && pos.val != v.g.gangpos))
    fun v =>
      let k := (v.wordB n).toNat % 4096
      let s := (v.advance n.len).put
      if k = 0 then s else arriveAt s v.g.gid pos.val c.val k

/-- Has a CLWAIT's condition come about: some true where the cleat is not owned by the group, some false where its phase
has flipped. -/
def clwaitState (s : State) (g : Group) (c : Nat) (parity : Bool) : Option Bool :=
  let k := (getCore s g.core).cleat c
  if k.owner != some g.gid then some true else if k.phase != parity then some false else none

/-- The acquire of a CLWAIT that saw its cleat's phase flip: at the scope named, at device scope where a collective arrived
(R315), and in any case for the lines of the copies that arrived (R314). -/
def clwaitAcquire (s : State) (core c : Nat) (gang : Bool) : State :=
  let k := (getCore s core).cleat c
  acquireL1 (dropLines s core k.lines) core (if k.coll then .dev else if gang then .gang else .core)

/-- A CLWAIT completes. -/
def View.endClwait (v : View) (gang : Bool) (pd : PR) (c : Nat) (lost : Bool) (len : Nat) : State :=
  let s := if lost then v.s else clwaitAcquire v.s v.g.core c gang
  (({ v with s, st := { v.st.setPredEm pd lost with wait := none } } : View).advance len).put

/-- CLWAIT. -/
def execClwait (h : Hd) (gang : Bool) (pd : PR) (c : Fin 32) (parity : BSrc) : State → Host.Outcome State Fault Refusal :=
  onceExec h { needCleat parity with preds := [pd] } fun v =>
    let p := (v.wordB parity).getLsbD 0
    match clwaitState v.s v.g c.val p with
    | some lost => v.endClwait gang pd c.val lost parity.len
    | none => (v.block (.clwait gang pd c.val p) parity.len).put

/-! ### WAITP (R418, R419) -/

/-- The effect of a completed WAITP on a path (R419): an acquire at device scope for collectives, and for a Windlass path one at
core scope, which invalidates the L1's lines of the completed copies (R314). -/
def waitpAcquire (s : State) (g : Group) (path : Nat) : State :=
  if path = 5 then acquireL1 s g.core .dev
  else if path ≠ 3 ∧ path ≠ 4 then s else dropLines s g.core ((g.copied.filter fun e => e.1 == path).map (·.2))

/-- A WAITP completes. -/
def View.endWaitp (v : View) (path len : Nat) : State :=
  (({ v with s := waitpAcquire v.s v.g path, st := { v.st with wait := none } } : View).advance len).put

/-- WAITP. -/
def execWaitp (h : Hd) (path : Path) (x : BSrc) : State → Host.Outcome State Fault Refusal :=
  onceExec h (needCleat x) fun v =>
    let p := path.code.toNat
    let n := (v.wordB x).toNat
    if v.g.pathCount p ≤ n then v.endWaitp p x.len else (v.block (.waitp p n) x.len).put

/-! ### The score table (R428 to R430) -/

/-- The entry of an index. -/
def scoreAt (g : Group) (j : Nat) : Word := tget 0 g.score j

/-- SACC's new value of an entry (R429). -/
def saccValue (op : SaccOp) (o : NanSrc) (e b : Nat) : Nat :=
  let x := opdOf .f32 e 0xFF 0
  let y := opdOf .f32 b 0xFF 0
  match op with
  | .add => (fpElem .add .f32 .rn false o x y y).1
  | .max => (fpElem .max .f32 .rn false o x y y).1
  | .set => b

/-- An instruction that is illegal in a group that is not Capstan-bound (R428), after the check of R124 and before every other. -/
def boundExec (h : Hd) (n : Need) (body : View → State) (s : State) : Host.Outcome State Fault Refusal :=
  match curView s with
  | none => .fault .noCurrentStrand
  | some v => if v.canIssue h n then
      .next (if v.g.capBound || (v.st.unowned n.named).isSome then (v.charge n).gate h n body else (v.charge n).illegal h n.len)
    else .next s

/-- SACC. -/
def execSacc (h : Hd) (op : SaccOp) (a : VR) (b : BSrc) : State → Host.Outcome State Fault Refusal :=
  let n := { needV .mem .f32 [] [(1, a.val)] b [] with noRegion := true }
  boundExec h n fun v =>
      let score := (maskLanes (v.st.acting h)).foldl (fun (t : List (Nat × Word)) i =>
        let j := (v.srcV .f32 a.val i).code % 4096
        tset 0 t j (BitVec.ofNat 32 (saccValue op ⟨i, 0, v.st.pc⟩ (tget 0 t j).toNat (v.srcB .f32 b i).code))) v.g.score
      (({ v with g := { v.g with score } } : View).advance n.len).put

/-- The rank of a score: numbers by value with −0 equal to +0, NaNs below every number. -/
def scoreKey (w : Word) : Int :=
  let mag : Int := (w.toNat % 2 ^ 31 : Nat)
  if (0x7F800000 : Int) < mag then -(2 ^ 32 : Nat) else if w.getLsbD 31 then -mag else mag

/-- An entry inserted after every entry that ranks at least as high. -/
def rankInsert (e : Nat × Word) : List (Nat × Word) → List (Nat × Word)
  | [] => [e]
  | x :: xs => if scoreKey e.2 ≤ scoreKey x.2 then x :: rankInsert e xs else e :: x :: xs

/-- The first n entries in rank order (R430). -/
def ranked (g : Group) (n : Nat) : List (Nat × Word) :=
  (List.range n).foldl (fun l j => rankInsert (j, scoreAt g j) l) []

/-- TOPK. Its B is prepared under F32, so an imm8 stands for the F32 word of its value (R51). -/
def execTopk (h : Hd) (sa : SR) (b : BSrc) : State → Host.Outcome State Fault Refusal :=
  let nd : Need := { port := .mem, len := b.len, sregs := sa.val :: b.ss .b32, path := some 2 }
  boundExec h nd fun v =>
    if !v.st.actsOnce h then (v.advance nd.len).put
    else
      let w := (v.srcB .f32 b 0).code
      let n := min (bits w 12 0) 4096
      let k := min (bits w 28 16) n
      let off := (readS v.g sa.val).toNat
      if off % 8 ≠ 0 then v.trapAt 0x06 nd.len (v.st.acting h) 0 off
      else if k = 0 then (v.advance nd.len).put
      else if v.g.shbytes < off + 8 * k then v.trapAt 0x08 nd.len (v.st.acting h) 4 off
      else
        let ps : List Part := ((ranked v.g n).take k).mapIdx fun i e =>
          { lane := 0, addr := off + 8 * i, pa := off + 8 * i, place := .shared v.g.gid, len := 8,
            data := leBytes 4 e.1 ++ leBytes 4 e.2.toNat }
        ((v.enqueue .store false true ps (some 2)).advance nd.len).put

/-! ### CNTRD and CNTCLR (R431) -/

/-- The state word of a cleat that a group owns; 0 for any other (R420). -/
def cleatWord (g : Group) (c : Cleat) : Nat :=
  if c.owner = some g.gid then
    c.count + c.expect * 2 ^ 12 + b2n c.phase * 2 ^ 24 + b2n c.armed * 2 ^ 25 + 2 ^ 26
  else 0

/-- The value of a counter. -/
def counterValue (s : State) (g : Group) (id : Nat) : Nat :=
  let co := getCore s g.core
  if id < 8 then g.pathCount id
  else if id = 0x08 then g.qsat
  else if id = 0x09 then g.qund
  else if id = 0x0A then g.wstat0.toNat
  else if id = 0x0B then g.wstat1.toNat
  else if id = 0x0C then g.lostarr
  else if id < 0x30 then cleatWord g (co.cleat (id - 0x10))
  else ((co.perf[id - 0x30]?).getD 0).toNat

/-- CNTRD. -/
def execCntrd (h : Hd) (sd : SR) (id : BitVec 8) : State → Host.Outcome State Fault Refusal :=
  let wide := cnt64 id.toNat
  onceExec h { port := .ctl, len := 8, sregs := if wide then [sd.val, sd.val + 1] else [sd.val] } fun v =>
    let x := counterValue v.s v.g id.toNat
    v.putS 2 8 (if wide then pairS sd.val x else [(sd.val, BitVec.ofNat 32 x)])

/-- A counter cleared; what has landed on QSAT or QUND in this clock stays. -/
def clearCounter (g : Group) (id : Nat) : Group :=
  if id = 0x08 then { g with qsat := g.qsatNow }
  else if id = 0x09 then { g with qund := g.qundNow }
  else if id = 0x0A then { g with wstat0 := 0 }
  else if id = 0x0B then { g with wstat1 := 0 }
  else if id = 0x0C then { g with lostarr := 0 }
  else { g with score := [] }

/-- CNTCLR. -/
def execCntclr (h : Hd) (id : BitVec 8) : State → Host.Outcome State Fault Refusal :=
  onceExec h { port := .ctl, len := 8, noRegion := true } fun v =>
    (({ v with g := clearCounter v.g id.toNat } : View).advance 8).put

/-! ### Restartable regions (R320, R321) -/

/-- The fixed guard of RGNBEG and RGNEND. -/
def rgnHd (y : Bool) : Hd := { y }

/-- RGNBEG. -/
def execRgnbeg (y : Bool) : State → Host.Outcome State Fault Refusal :=
  strandExec (rgnHd y) { port := .ctl, len := 8 } fun v =>
    if v.st.active then v.trapAt 0x13 8 (v.st.acting (rgnHd y)) 2 0
    else (({ v with st := { v.st with active := true, rgnpc := (v.st.pc + 8) &&& 0xFFFFFFFFFFFFFF, rgnem := v.st.em } } : View).advance 8).put

/-- A strand whose region has ended: its loads in flight are of no region (R323). -/
def Strand.leaveRegion (st : Strand) : Strand := { st with active := false, acc := st.acc.map fun e => { e with inRegion := false } }

/-- RGNEND. -/
def execRgnend (y : Bool) : State → Host.Outcome State Fault Refusal :=
  strandExec (rgnHd y) { port := .ctl, len := 8 } fun v =>
    if v.st.active then (({ v with st := v.st.leaveRegion } : View).advance 8).put
    else v.trapAt 0x13 8 (v.st.acting (rgnHd y)) 3 0

end Sys2Proof.Machine
end

