-- ==== Sys2Proof/Machine/Pager.lean ====
section
/-! DEFINITION. Pager requests (R375, R454). -/

namespace Sys2Proof.Machine

/-- What a request asks for: a page, or an absent sequence-map entry. -/
inductive PagerAsk
  | page (va : Nat)
  | mapWord (handle page : Nat)
  deriving DecidableEq, Repr

/-- The four words of a request (R454). -/
def PagerAsk.bytes (a : PagerAsk) (ctxid : Word) (number : Nat) : List Byte :=
  match a with
  | .page va => leBytes 8 va ++ leBytes 8 (ctxid.toNat * 2 ^ 32) ++ leBytes 8 0 ++ leBytes 8 (number * 2 ^ 32)
  | .mapWord h p => leBytes 8 0 ++ leBytes 8 (1 + ctxid.toNat * 2 ^ 32) ++ leBytes 8 h ++
      leBytes 8 (p % 2 ^ 24 + number * 2 ^ 32)

/-- The number by which a request is known to be open already: the page, or the map word above every address. -/
def PagerAsk.key (a : PagerAsk) : Nat :=
  match a with
  | .page va => va / 65536
  | .mapWord h p => 2 ^ 64 * (h + 1) + p

/-- Has the tenant's ring room for a request? -/
def pagerRoom (t : Tenant) : Bool := t.pglog2 != 0 && decide ((t.pgtail - t.pghead).toNat < 2 ^ t.pglog2)

/-- A request is written to the ring, PGTAIL advances, and the device event is raised (R454). None where the ring is full
or disabled. -/
def postPager (s : State) (c : Ctx) (agent : Option Nat) (a : PagerAsk) : Option (Nat × State) :=
  let t := getTenant s c.tenant
  if pagerRoom t then
    let n := t.pgnext.toNat
    let at_ := t.pgbase + 32 * (t.pgtail.toNat % 2 ^ t.pglog2)
    let s1 := sysWrite s c at_ (a.bytes c.ctxid n)
    let t1 := { t with pgtail := t.pgtail + 1, pgnext := t.pgnext + 1,
                       pgopen := t.pgopen ++ [{ number := n, ctx := c.id, agent, va := a.key }] }
    some (n, raiseAfter (putTenant s1 c.tenant t1) { ctx := c.id, va := at_, len := 32, tenant := c.tenant, bit := 0 })
  else none

/-- The request of an engine that waits for a page: posted once while it is open (R375). -/
def askPage (s : State) (c : Ctx) (va : Nat) : State :=
  if (getTenant s c.tenant).pgopen.any fun p => p.ctx == c.id && p.agent.isNone && p.va == va / 65536 then s
  else match postPager s c none (.page va) with
    | some (_, s1) => s1
    | none => s

end Sys2Proof.Machine
end

