-- ==== Sys2Proof/Machine/Copy.lean ====
section
/-! DEFINITION. Queues II: Windlass copies, and the fabric path (R349 to R358). -/

namespace Sys2Proof.Machine

/-! ### Issue (R350, R351, R353, R358) -/

/-- The five values of a copy, its path, and whether it is COPYG. -/
structure CopyArgs where
  g : Bool
  path : Nat
  dst : Nat
  src : Nat
  len : Nat
  shape : DWord
  flags : Word
  deriving DecidableEq, Repr

/-- Rows of a shape; 0 stands for 1. -/
def shapeRows (sh : DWord) : Nat := max 1 (bits sh.toNat 15 0)
/-- Bytes from one source row to the next. -/
def shapeSrc (sh : DWord) : Nat := bits sh.toNat 39 16
/-- Bytes from one destination row to the next. -/
def shapeDst (sh : DWord) : Nat := bits sh.toNat 63 40

/-- Is the source, or the destination, in shared memory (R351)? -/
def srcShared (path : Nat) : Bool := path == 2 || path == 3
/-- The destination. -/
def dstShared (path : Nat) : Bool := path == 1 || path == 3

/-- Does a range of rows in shared memory reach past a size? -/
def rowsReach (size a rows stride len : Nat) : Bool := len != 0 && decide (size < a + (rows - 1) * stride + len)

/-- The channel of a copy. -/
def copyCh (flags : Word) : Nat := b2n (flags.getLsbD 1)

/-- The lowest reason of R353 that a copy breaks. -/
def CopyArgs.fault (a : CopyArgs) (g : Group) : Option Nat :=
  let f := a.flags.toNat
  let rows := shapeRows a.shape
  let t := tbit f 0
  if a.path = 7 || (a.g && !(a.path == 1 || a.path == 3)) then some 11
  else if t && (a.path != 0 || a.dst % 4 != 0 || a.src % 4 != 0 || a.len % 4 != 0 || shapeSrc a.shape % 4 != 0 ||
      shapeDst a.shape % 4 != 0) then some 12
  else if (!a.g && bits f 15 12 != 0) || (a.path != 6 && bits f 31 16 != 0) || decide (2 ^ 32 < rows * a.len) ||
      decide ((if srcShared a.path then 2 ^ 32 else 2 ^ 56) ≤ a.src) ||
      decide ((if dstShared a.path then 2 ^ 32 else 2 ^ 56) ≤ a.dst) ||
      (srcShared a.path && rowsReach g.shbytes a.src rows (shapeSrc a.shape) a.len) ||
      (dstShared a.path && !a.g && rowsReach g.shbytes a.dst rows (shapeDst a.shape) a.len) then some 13
  else if (tbit f 2 && decide (g.gangsize ≤ bits f 11 8)) || (a.g && decide (g.gangsize ≤ bits f 15 12)) then some 14
  else none

/-- The copies of a channel. -/
def Core.chan (co : Core) (ch : Nat) : List Copy := if ch = 0 then co.ch0 else co.ch1

/-- A core with a channel's copies replaced. -/
def Core.putChan (co : Core) (ch : Nat) (l : List Copy) : Core := if ch = 0 then { co with ch0 := l } else { co with ch1 := l }

/-- Can the copy enter its channel and raise its counter now (R349, R417)? -/
def copyRoom (s : State) (g : Group) (flags : Word) : Bool :=
  decide (((getCore s g.core).chan (copyCh flags)).length < 16) && decide (g.pathCount (3 + copyCh flags) < 4095)

/-- A copy enters its channel and raises its counter; it waits for the issuer's earlier accesses (R314). -/
def enqueueCopy (s : State) (g : Group) (issuer : Agent) (a : CopyArgs) : State :=
  let seq := s.nextSeq
  let ch := copyCh a.flags
  let k : Copy := { seq, gid := g.gid, g := a.g, path := a.path, dst := a.dst, src := a.src, len := a.len,
                    shape := a.shape, flags := a.flags, issuer, upto := seq }
  let co := getCore s g.core
  putGroup (putCore { s with nextSeq := seq + 1 } g.core (co.putChan ch (co.chan ch ++ [k]))) (g.pathRaise (3 + ch) seq)

/-- The values of a strand's copy, from its block of eight uniform registers (R358). -/
def View.copyArgs (v : View) (isG : Bool) (path b : Nat) : CopyArgs :=
  { g := isG, path, dst := (readSS v.g b).toNat, src := (readSS v.g (b + 2)).toNat, len := (readS v.g (b + 4)).toNat,
    flags := readS v.g (b + 5), shape := readSS v.g (b + 6) }

/-- The needs of COPY and COPYG. -/
def needCopy (b : Nat) : Need :=
  { port := .mem, len := 8, sregs := (List.range 8).map (b + ·), noRegion := true, noRecompute := true }

/-- COPY and COPYG: not ready while the channel is full, nor once the Capstan has issued in the clock, whose operations enter a path
last (R417). -/
def copyExec (h : Hd) (isG : Bool) (path b : Nat) (s : State) : Host.Outcome State Fault Refusal :=
  match curView s with
  | none => .fault .noCurrentStrand
  | some v =>
    let a := v.copyArgs isG path b
    if v.canIssue h (needCopy b) && (!v.st.actsOnce h || (a.fault v.g).isSome ||
        (copyRoom s v.g a.flags && !v.capIssued)) then
      .next ((v.charge (needCopy b)).gate h (needCopy b) fun v =>
        if v.st.actsOnce h then
          match a.fault v.g with
          | some r => v.trapAt 0x18 8 (v.st.acting h) (BitVec.ofNat 32 r) 0
          | none =>
              let w := v.advance 8
              enqueueCopy w.put (w.g.putStrand w.j w.st) v.agent a
        else (v.advance 8).put)
    else .next s

/-- COPY (R358). -/
def execCopy (h : Hd) (path : Fin 8) (a : Fin 128) : State → Host.Outcome State Fault Refusal :=
  copyExec h false path.val (8 * a.val)

/-- COPYG (R358). -/
def execCopyg (h : Hd) (path : Fin 8) (a : Fin 128) : State → Host.Outcome State Fault Refusal :=
  copyExec h true path.val (8 * a.val)

/-! ### Running a copy (R352, R354) -/

/-- What a byte of a copy meets at its source or destination. -/
inductive CopyMeet
  | byte (b : Byte)
  | place (pa : Nat)
  | fail (cause preason addr : Nat)
  | page (va : Nat)
  | tile (va : Nat)
  deriving DecidableEq, Repr

/-- A failure of R251 as R354 records it; an absent page makes the copy wait (R375). -/
def copyFail (rank cause : Nat) (extra : Word) (addr : Nat) : CopyMeet :=
  if awayRank rank then .page addr
  else if cause = 0x08 then .fail 1 (extra.toNat % 8) addr
  else if cause = 0x09 then .fail 2 0 addr
  else .fail 3 0 addr

/-- The address a byte of a copy is at in global memory (R352). -/
def copyAt (c : Ctx) (tag : Bool) (a : Nat) : Nat := if tag && (regionAt c a).isNone then tagAddr c a else a

/-- A byte read at a global source. `tag` is a tag byte of the word at the address. -/
def copyRead (s : State) (c : Ctx) (g : Group) (k : Copy) (tag : Bool) (a : Nat) : CopyMeet :=
  if srcShared k.path then
    if sharedBad g a 1 then .fail 3 0 a else .byte (readByte g.shared a)
  else
    let at_ := copyAt c tag a
    match checkSys s c (.copySrc (k.path == 4)) at_ 1 with
    | .ok _ (.derived ..) => match tileUnready s c a with
      | some va => .tile va
      | none => .byte (tileByte s c.id (granule a) (tileOff tag a))
    | .ok pa _ => if isPoisoned s pa then .fail 3 0 at_ else .byte (readByte s.mem pa)
    | .fail rank cause extra addr => copyFail rank cause extra addr
    | .miss p => .page (p * 65536)

/-- The group a copy writes shared memory of: its own, or for COPYG the one at RPOS. -/
def copyGroup (s : State) (g : Group) (k : Copy) : Option Group :=
  if k.g then gangMember s g (bits k.flags.toNat 15 12) else some g

/-- The bytes of a copy in the order of R352: source address, destination address, and whether it is the tag byte of the
word there. -/
def copyBytes (k : Copy) : List (Nat × Nat × Bool) :=
  (List.range (shapeRows k.shape)).flatMap fun r =>
    let so := k.src + r * shapeSrc k.shape
    let d := k.dst + r * shapeDst k.shape
    (List.range k.len).map (fun b => (add64 so b, add64 d b, false)) ++
    (if k.flags.getLsbD 0 then (List.range (k.len / 4)).map fun w => (add64 so (4 * w), add64 d (4 * w), true) else [])

/-- The bytes of a copy that it has still to perform, with their numbers in the order of `copyBytes`. -/
def copyRest (k : Copy) : List (Nat × Nat × Nat × Bool) :=
  ((copyBytes k).zipIdx.map fun x => (x.2, x.1)).filter fun x => !k.did.contains x.1

/-- Do the data and tag bytes still to come cover the whole line at a destination address (R271)? -/
def copyCovers (c : Ctx) (k : Copy) (a : Nat) : Bool :=
  let hit := (copyRest k).map fun (_, _, d, t) => copyAt c t d
  (List.range 128).all fun n => hit.contains (a / 128 * 128 + n)

/-- The place of a byte of a copy in the space of its destination, where its checks name one. -/
def copyPlace (s : State) (c : Ctx) (g : Group) (k : Copy) (tag : Bool) (a : Nat) : Option Nat :=
  if dstShared k.path then (copyGroup s g k).bind fun t => if a < t.shbytes then some a else none
  else match checkSys s c (.copyDst (k.path == 5)) (copyAt c tag a) 1 with
    | .ok pa _ => some pa
    | _ => none

/-- Where a byte of a copy is written. -/
def copyWrite (s : State) (c : Ctx) (g : Group) (k : Copy) (tag : Bool) (a : Nat) : CopyMeet :=
  if dstShared k.path then
    match copyGroup s g k with
    | none => .fail 4 0 a
    | some t => if a < t.shbytes then .place a else .fail 5 0 a
  else
    let at_ := copyAt c tag a
    match checkSys s c (.copyDst (k.path == 5)) at_ 1 with
    | .ok pa _ => if isPoisoned s pa && !copyCovers c k at_ then .fail 3 0 at_ else .place pa
    | .fail rank cause extra addr => copyFail rank cause extra addr
    | .miss p => .page (p * 65536)

/-- One byte of a copy performed at its destination address and place. -/
def copyStore (s : State) (c : Ctx) (g : Group) (k : Copy) (va pa : Nat) (b : Byte) : State :=
  if dstShared k.path then
    match (copyGroup s g k).bind fun t => getGroup s t.gid with
    | some t => putGroup s (t.writeShared pa [b])
    | none => s
  else writeLine s (some c.id) va pa [b]

/-- What a byte of a copy meets at its source and at its destination. -/
def copyMeet (s : State) (c : Ctx) (g : Group) (k : Copy) (e : Nat × Nat × Bool) : CopyMeet × CopyMeet :=
  (copyRead s c g k e.2.2 e.1, copyWrite s c g k e.2.2 e.2.1)

/-- The bytes of a copy that it has still to perform, with what they meet. -/
def copyMeets (s : State) (c : Ctx) (g : Group) (k : Copy) : List (CopyMeet × CopyMeet) :=
  (copyRest k).map fun x => copyMeet s c g k x.2

/-- Does a COPYG name a position other than its issuer's? -/
def copyAway (g : Group) (k : Copy) : Bool := k.g && bits k.flags.toNat 15 12 != g.gangpos

/-- The place of a byte's source in the space of the copy's destination, where the two share one (R352). -/
def copySource (s : State) (c : Ctx) (g : Group) (k : Copy) (e : Nat × Nat × Bool) : Option Nat :=
  if srcShared k.path != dstShared k.path || copyAway g k then none
  else if srcShared k.path then some e.1
  else match checkSys s c (.copySrc (k.path == 4)) (copyAt c e.2.2 e.1) 1 with
    | .ok pa (.home ..) => some pa
    | _ => none

/-- The source places of a copy in the space of its destination, for the overlap of R352. -/
def copySources (s : State) (c : Ctx) (g : Group) (k : Copy) : List Nat := (copyBytes k).filterMap (copySource s c g k)

/-- The places that a copy writes. -/
def copyPlaces (s : State) (c : Ctx) (g : Group) (k : Copy) : List Nat :=
  (copyBytes k).filterMap fun e => copyPlace s c g k e.2.2 e.2.1

/-- Some bytes of a copy performed, all of them or (`choose`) a free choice. A byte over the copy's own sources is free, and so is one
whose source the copy itself writes: it may have been read before or after, log 93. Where rows meet, a free choice decides which stays
(R352). -/
def copyPerform (s : State) (c : Ctx) (g : Group) (k : Copy) (es : List (Nat × Nat × Nat × Bool)) (choose : Bool) : State :=
  let srcs := copySources s c g k
  let dsts := copyPlaces s c g k
  let past := (copyBytes k).zipIdx.filterMap fun x => if k.did.contains x.2 then copyPlace s c g k x.1.2.2 x.1.2.1 else none
  let r := es.foldl (fun (acc : State × List Nat × Nat) e =>
    let (t, seen, n) := acc
    match copyMeet s c g k e.2 with
    | (.byte b, .place pa) =>
        let skip := (choose || seen.contains pa) && Config.freeChoice n % 2 == 0
        let v := if srcs.contains pa || (copySource s c g k e.2).any dsts.contains then Config.freeByte n else b
        (if skip then t else copyStore t c g k (copyAt c e.2.2.2 e.2.2.1) pa v, pa :: seen, n + 1)
    | _ => (t, seen, n + 1)) (s, past, s.free)
  { r.1 with free := r.2.2 }

/-- The writes of a copy that are still to come; a failed copy performs a free choice of them (R354). -/
def copyApply (s : State) (c : Ctx) (g : Group) (k : Copy) (failed : Bool) : State :=
  let s1 := copyPerform s c g k (copyRest k) failed
  if failed || dstShared k.path then s1
  else curePoison s1 fun l => (copyMeets s c g k).any fun m => match m.2 with
    | .place pa => pa / 128 * 128 == l
    | _ => false

/-- The physical lines that a copy writes in global memory (R314). -/
def copyLines (s : State) (c : Ctx) (g : Group) (k : Copy) : List Nat :=
  if dstShared k.path || k.path == 6 then [] else ((copyPlaces s c g k).map fun pa => pa / 128 * 128).eraseDups

/-- A copy completes: an error is recorded, the counter falls, the cleat is arrived on (R354, R355). The lines it wrote are kept
for what observes its completion (R314). -/
def finishCopy (s : State) (core ch : Nat) (k : Copy) : State :=
  let co := getCore s core
  let s1 := putCore s core (co.putChan ch ((co.chan ch).filter fun x => x.seq != k.seq))
  match getGroup s1 k.gid with
  | none => s1
  | some g =>
    let put := fun (old : DWord) => match k.fail with
      | some (cause, pr, addr) =>
          if old.getLsbD 0 then old else BitVec.ofNat 64 (1 + cause % 16 * 2 + pr % 8 * 2 ^ 5 + addr % 2 ^ 56 * 2 ^ 8)
      | none => old
    let g1 := if ch = 0 then { g with wstat0 := put g.wstat0 } else { g with wstat1 := put g.wstat1 }
    let lines := ((getCtx s g.ctx).map fun c => copyLines s c g k).getD []
    let g2 := { g1.pathLower (3 + ch) k.seq with copied := g1.copied ++ lines.map fun l => (3 + ch, l) }
    let s2 := putGroup s1 g2
    if k.flags.getLsbD 2 then
      arriveWith s2 g2 (bits k.flags.toNat 11 8) (bits k.flags.toNat 7 3) { g2.arrival 1 with lines }
    else s2

/-- The copy at the head of a channel. -/
def headCopy (s : State) (core ch : Nat) : Option Copy := ((getCore s core).chan ch).head?

/-- The copy at the head of a channel replaced. -/
def putHead (s : State) (core ch : Nat) (k : Copy) : State :=
  let co := getCore s core
  putCore s core (co.putChan ch ((co.chan ch).map fun x => if x.seq == k.seq then k else x))

/-- A copy that waits for a page or a tile. -/
def copyWait (s : State) (c : Ctx) (m : CopyMeet) : State :=
  match m with
  | .page va => askPage s c va
  | .tile va => meetTile s c none va
  | _ => s

/-- The first byte of a copy that does not pass. -/
def firstStop (l : List (CopyMeet × CopyMeet)) : Option CopyMeet :=
  l.findSome? fun m => match m with
    | (.byte _, .place _) => none
    | (.byte _, x) => some x
    | (x, _) => some x

/-- The poisoned line at which a copy stopped has been met. -/
def meetFailed (s : State) (c : Ctx) (g : Group) (k : Copy) (cause a : Nat) : State :=
  if cause = 3 && !(srcShared k.path && sharedBad g a 1) then meetAt s c a else s

/-- A path 6 copy reads its source and sends its rows to the destination device (R357). -/
def sendFabric (s : State) (c : Ctx) (core ch : Nat) (k : Copy) (bs : List Byte) : State :=
  let rows := (List.range (shapeRows k.shape)).map fun r =>
    OutMsg.fabricWrite (bits k.flags.toNat 31 16) c.tenant (sysNat s c (c.trapvec + 0x90) 4)
      (add64 k.dst (r * shapeDst k.shape)) ((bs.drop (r * k.len)).take k.len)
  putHead { s with outbox := s.outbox ++ rows } core ch { k with sentOut := true }

/-- The started copy at the head of a channel runs to its end, or waits (R352 to R355). -/
def runCopy (s : State) (c : Ctx) (g : Group) (core ch : Nat) (k : Copy) : State :=
  if k.fail.isSome then finishCopy (if k.path = 6 then s else copyApply s c g k true) core ch k
  else if k.path = 6 then
    if k.sentOut then s
    else if k.len = 0 then finishCopy s core ch k
    else
      let l := (copyBytes k).map fun (a, _, t) => copyRead s c g k t a
      let stop : Option CopyMeet := l.find? fun m => match m with
        | .byte _ => false
        | _ => true
      match stop with
      | some (.fail x p a) => finishCopy (meetFailed s c g k x a) core ch { k with fail := some (x, p, a) }
      | some m => copyWait s c m
      | none => sendFabric s c core ch k (l.filterMap fun m => match m with
          | .byte b => some b
          | _ => none)
  else match firstStop (copyMeets s c g k) with
    | some (.fail x p a) => finishCopy (meetFailed (copyApply s c g k true) c g k x a) core ch { k with fail := some (x, p, a) }
    | some m => copyWait s c m
    | none => finishCopy (copyApply s c g k false) core ch k

/-- WINDLASS_COPY_START: the copy at the head of a channel sends its first read once every earlier access of its issuer
has been performed (R314, R355). -/
def execWindlassCopyStart (core ch : Nat) (s : State) : Host.Outcome State Fault Refusal :=
  .next (match headCopy s core ch with
    | some k => match getGroup s k.gid with
      | some g => if k.started || !handoffDone g k.issuer k.upto then s else putHead s core ch { k with started := true }
      | none => s
    | none => s)

/-- Is a byte of a copy one that it may perform now: it passes its checks, and its place is not in a poisoned line, which is written at
the copy's completion or not at all? -/
def copyReady (s : State) (c : Ctx) (g : Group) (k : Copy) (e : Nat × Nat × Bool) : Bool := match copyMeet s c g k e with
  | (.byte _, .place pa) => dstShared k.path || !isPoisoned s pa
  | _ => false

/-- The copies at the heads of the channels that have started, with core and channel. -/
def runningCopies (s : State) : List (Nat × Nat × Copy) :=
  (s.cores.flatMap fun e => [0, 1].filterMap fun ch => (headCopy s e.1 ch).map fun k => (e.1, ch, k)).filter fun x =>
    x.2.2.started && x.2.2.fail.isNone && x.2.2.path != 6

/-- In a clock a started copy performs a free choice of the bytes it has still to move: they are read and written in no defined order,
before it completes (R314, R352; log 51). -/
def copyProgress (s : State) (core ch : Nat) (k : Copy) : State :=
  match (getGroup s k.gid).bind fun g => (getCtx s g.ctx).map fun c => (g, c) with
  | none => s
  | some (g, c) =>
    let chosen := (copyRest k).filter fun x => Config.freeChoice (s.free + x.1) % 2 == 1
    let es := chosen.filter fun x => copyReady s c g k x.2
    let s1 : State := { s with free := s.free + (copyBytes k).length }
    putHead (copyPerform s1 c g k es false) core ch { k with did := k.did ++ es.map (·.1) }

/-- The started copies go on for a clock. -/
def runCopies (s : State) : State := (runningCopies s).foldl (fun s x => copyProgress s x.1 x.2.1 x.2.2) s

/-- WINDLASS_COPY_COMPLETE: a started copy completes, or stops on an error. -/
def execWindlassCopyComplete (core ch : Nat) (s : State) : Host.Outcome State Fault Refusal :=
  .next (match headCopy s core ch with
    | some k => match (getGroup s k.gid).bind fun g => (getCtx s g.ctx).map fun c => (g, c) with
      | some (g, c) => if k.started then runCopy s c g core ch k else s
      | none => s
    | none => s)

/-- FABRIC_WRITE_REPORT: the destination device has reported every write of a path 6 copy, or refused one (R357). -/
def execFabricWriteReport (core ch : Nat) (refusedAt : Option Nat) (s : State) : Host.Outcome State Fault Refusal :=
  .next (match headCopy s core ch with
    | some k => if k.started && k.path == 6 && k.sentOut then
          finishCopy s core ch { k with fail := refusedAt.map fun a => (6, 0, a) }
        else s
    | none => s)

/-- The context that takes fabric writes of a tenant's job (R357). -/
def fabricCtx (s : State) (tenant fjob : Nat) : Option Ctx :=
  s.ctxs.find? fun c => c.tenant == tenant && c.ended.isNone && sysNat s c (c.trapvec + 0x90) 4 == fjob

/-- The physical addresses of the bytes that pass their checks. -/
def okAddrs (l : List Verdict) : List Nat := l.filterMap fun v => match v with
  | .ok pa _ => some pa
  | _ => none

/-- A write from another device is performed at its home and reported, refused, or waits for a page of this device's pager
(R357). -/
def fabricWrite (s : State) (f : FabricIn) : State :=
  let reply := fun (s : State) (no : Bool) => { s with outbox := s.outbox ++ [.fabricReply f.tenant f.fjob f.va no] }
  match fabricCtx s f.tenant f.fjob with
  | none => reply s true
  | some c =>
    let base := sysNat s c (c.trapvec + 0x80) 8
    let size := sysNat s c (c.trapvec + 0x88) 8
    if f.va < base || decide (base + size < f.va + f.bytes.length) then reply s true
    else
      let l := (List.range f.bytes.length).map fun n => checkSys s c (.copyDst false) (f.va + n) 1
      let pas := okAddrs l
      let lost := pas.filter fun pa => isPoisoned s pa && !(List.range 128).all fun n => pas.contains (pa / 128 * 128 + n)
      let bad := l.any fun v => match v with
        | .fail r .. => !awayRank r
        | _ => false
      if bad || !lost.isEmpty then reply (lost.foldl meetPoison s) true
      else match l.findSome? fun v => match v with
          | .fail _ _ _ a => some a
          | _ => none with
        | some a =>
            let s1 := askPage s c a
            { s1 with fabricIn := s1.fabricIn ++ [f] }
        | none =>
            let s1 := (pas.zip f.bytes).zipIdx.foldl (fun s p => writeLine s (some c.id) (f.va + p.2) p.1.1 [p.1.2]) s
            reply (curePoison s1 fun x => pas.any fun pa => pa / 128 * 128 == x) false

/-- The writes from other devices that wait for a page are tried again. -/
def retryFabric (s : State) : State := s.fabricIn.foldl fabricWrite { s with fabricIn := [] }

/-- FABRIC_WRITE_RECEIVE (R357). -/
def execFabricWriteReceive (tenant fjob va : Nat) (bytes : List Byte) (s : State) : Host.Outcome State Fault Refusal :=
  .next (fabricWrite s { tenant, fjob, va, bytes })

end Sys2Proof.Machine
end

