-- ==== Sys2Proof/Machine/Float.lean ====
section
/-! DEFINITION. Registers III: floating-point, conversion, quantisation, rotary and significance instructions
(R157 to R186). -/

namespace Sys2Proof.Machine

/-! ### What the chapter's instructions share -/

/-- A result put in flight that SIGNIFICANCE checks when it lands, while SIGCTL enables the check and the strand is in
no handler (R163, R164, R440). `elems` is the mask of written elements. -/
def View.flyChecked (v : View) (h : Hd) (lat : Nat) (f : Fmt) (regs : List Nat) (elems : Nat) (ws : List VWrite)
    (qsat qund : Nat) : View :=
  let chk : Option SigCheck :=
    if v.g.sigctl.getLsbD 0 && v.st.handler.isNone then
      some { pc := v.st.pc, iw0 := v.iw0, iw1 := v.iw1, fmt := f, elems, lanes := v.st.acting h,
             regs := regs.map fun r => (v.st.tileOf r, r % 8) }
    else none
  let fl : Flight := { seq := v.s.nextSeq, issuedAt := v.s.clock, landAt := v.s.clock + lat, v := ws, qsat, qund, chk }
  { v with s := { v.s with nextSeq := v.s.nextSeq + 1 }, st := { v.st with flights := v.st.flights ++ [fl] } }

/-- Every element of a format. -/
def allElems (f : Fmt) : Nat := 2 ^ f.elems - 1

/-- A word and its tag from the elements' codes and counts. -/
def floatWord (f : Fmt) (g : Nat → Nat × Option Nat) : Nat × Byte :=
  (List.range f.elems).foldl (fun r k =>
    let e := g k
    (setElem f r.1 k e.1, storeCount f r.2 k e.1 e.2)) (0, 0)

/-- The source of an origin payload of a strand's result in a lane. -/
def View.nan (v : View) (lane : Nat) : NanSrc := ⟨lane, 0, v.st.pc⟩

/-- An operand with a modifier applied to its value. -/
def Opd.map (o : Opd) (g : Num → Num) : Opd := { o with x := g o.x }

/-- A checked result in V register d, and the PC past the instruction. -/
def View.putFloat (v : View) (h : Hd) (lat len : Nat) (f : Fmt) (d : Nat) (r : Nat → Nat × Byte) : State :=
  ((v.flyChecked h lat f [d] (allElems f) (v.resultWrites f d (v.st.acting h) r) 0 0).advance len).put

/-- The needs of a floating-point instruction. F64 is gated (R86). -/
def needF (port : Port) (occ : Nat) (f : Fmt) (d a : VR) (b : BSrc) (c : Option VR) : Need :=
  { needV port f (vNames f 0 d) (vNames f 1 a) b ((c.map fun n => vNames f 3 n).getD []) with occ, f64 := f == .f64 }

/-- An operation on each element of A, B and C (R167, R172). -/
def floatExec (h : Hd) (n : Need) (lat : Nat) (op : FOp) (f : Fmt) (mode : RMode) (m : Mods) (d a : VR) (b : BSrc)
    (c : Option VR) : State → Host.Outcome State Fault Refusal :=
  strandExec h n fun v => v.putFloat h lat n.len f d.val fun i => floatWord f fun k =>
    fpElem op f mode m.sat (v.nan i) (((v.srcV f a.val i).opd f k).map m.onA) (((v.srcB f b i).opd f k).map m.onB)
      (match c with
       | some x => (v.srcV f x.val i).opd f k
       | none => opdOf f 0 0 0)

/-- A VA operation: one clock, or two under F64; latency 4 or 8 (R162). -/
def vaExec (h : Hd) (op : FOp) (f : Fmt) (mode : RMode) (m : Mods) (d a : VR) (b : BSrc) (c : Option VR) :
    State → Host.Outcome State Fault Refusal :=
  floatExec h (needF .va (if f = .f64 then 2 else 1) f d a b c) (if f = .f64 then 8 else 4) op f mode m d a b c

/-- A function of one operand on VX (R162, R171). -/
def fnExec (h : Hd) (g : Fn) (f : Fmt) (mode : RMode) (m : Mods) (d a : VR) : State → Host.Outcome State Fault Refusal :=
  floatExec h (needF .vx (if f = .f64 then 8 else 4) f d a (.imm8 0) none) (if f = .f64 then 32 else 16) (.fn g) f mode m
    d a (.imm8 0) none

/-! ### Arithmetic (R166, R167) -/

/-- FADD -/
def execFadd (h : Hd) (f : Fmt) (mode : RMode) (m : Mods) (d a : VR) (b : BSrc) :
    State → Host.Outcome State Fault Refusal := vaExec h .add f mode m d a b none

/-- FMUL -/
def execFmul (h : Hd) (f : Fmt) (mode : RMode) (m : Mods) (d a : VR) (b : BSrc) :
    State → Host.Outcome State Fault Refusal := vaExec h .mul f mode m d a b none

/-- FFMA: one rounding -/
def execFfma (h : Hd) (f : Fmt) (mode : RMode) (m : Mods) (d a : VR) (b : BSrc) (c : VR) :
    State → Host.Outcome State Fault Refusal := vaExec h .fma f mode m d a b (some c)

/-- FMIN -/
def execFmin (h : Hd) (f : Fmt) (m : Mods) (d a : VR) (b : BSrc) :
    State → Host.Outcome State Fault Refusal := vaExec h .min f .rn m d a b none

/-- FMAX -/
def execFmax (h : Hd) (f : Fmt) (m : Mods) (d a : VR) (b : BSrc) :
    State → Host.Outcome State Fault Refusal := vaExec h .max f .rn m d a b none

/-- FDIV (R162: 4 clocks and 24, or 8 and 40 under F64) -/
def execFdiv (h : Hd) (f : Fmt) (mode : RMode) (m : Mods) (d a : VR) (b : BSrc) :
    State → Host.Outcome State Fault Refusal :=
  floatExec h (needF .va (if f = .f64 then 8 else 4) f d a b none) (if f = .f64 then 40 else 24) .div f mode m d a b none

/-! ### Comparison and classification (R168, R169) -/

/-- A floating-point comparison. -/
def Cmp.holdsFloat (c : Cmp) (x y : Num) : Bool :=
  if x.isNan || y.isNan then c == .ne || c == .nan
  else match c with
    | .eq => x.eq y
    | .ne => !x.eq y
    | .lt => x.lt false y
    | .le => !y.lt false x
    | .gt => y.lt false x
    | .ge => !x.lt false y
    | .num => true
    | .nan => false

/-- FSETP (R168). -/
def execFsetp (h : Hd) (f : Fmt) (cmp : Cmp) (m : Mods) (pd : PR) (a : VR) (b : BSrc) (comb : Comb) (elem1 : Bool) :
    State → Host.Outcome State Fault Refusal :=
  strandExec h { needV .va f [] (vNames f 1 a) b [] with
                 f64 := f == .f64, occ := if f = .f64 then 2 else 1, preds := pd :: comb.reads } fun v =>
    (((v.setComb h pd comb fun i =>
      let k := b2n elem1
      Cmp.holdsFloat cmp (m.onA ((v.srcV f a.val i).opd f k).x) (m.onB ((v.srcB f b i).opd f k).x)).hold (if f = .f64 then 8 else 4) [pd] false).advance b.len).put

/-- The quiet bit of a format (R104). -/
def quietBit : Fmt → Nat
  | .f32 => 22 | .f16 => 9 | .bf16 => 6 | _ => 51

/-- The class of a code (R169). -/
def classOf (f : Fmt) (code : Nat) : Nat :=
  if f = .fp4 ∧ code % 16 = 8 then 10
  else match numOf f code with
    | .nan .. => if f = .m8 || tbit code (quietBit f) then 8 else 9
    | .inf s => if s then 0 else 7
    | .fin s 0 _ => if s then 3 else 4
    | .fin s m e =>
        if decide ((Num.fin s m e).expo < f.emin) then (if s then 2 else 5) else (if s then 1 else 6)
    | .bad => 0

/-- FCLASS (R169). -/
def execFclass (h : Hd) (f : Fmt) (d a : VR) : State → Host.Outcome State Fault Refusal :=
  strandExec h { port := .vx, len := 8, f64 := f == .f64, named := (0, d.val) :: vNames f 1 a } fun v =>
    v.putWords h 4 8 d.val fun i =>
      (List.range f.elems).foldl (fun w k => w + classOf f (elemAt f (v.srcV f a.val i).code k) * 16 ^ k) 0

/-! ### FDOT2 (R170) -/

/-- The word of FDOT2: the exact sum of two products and C, rounded once. -/
def dot2Word (f : Fmt) (mode : RMode) (m : Mods) (o : NanSrc) (a b : Nat → Opd) (c : Opd) : Nat × Byte :=
  let neg := fun (n : Bool) (x : Opd) => if n then x.map Num.negate else x
  let a0 := neg m.na (a 0)
  let a1 := neg m.na (a 1)
  let b0 := neg m.nb (b 0)
  let b1 := neg m.nb (b 1)
  let p0 := a0.x.mul b0.x
  let p1 := a1.x.mul b1.x
  let r : Nat × Nat := match firstNan [a0.x, a1.x, b0.x, b1.x, c.x] with
    | some n => (n.nanCode .f32 o, 0)
    | none =>
      let x := (p0.add (mode = .rd) p1).add (mode = .rd) c.x
      if x = .bad then (originNan .f32 o, 0)
      else
        let r := roundTo .f32 x mode m.sat 0
        let p := f.prec 0
        let term := fun (y : Num) (u w : Opd) => (y, min (mulCount u w) p, decide (p ≤ mulCount u w))
        (r.code, if r.ovf then 0
                 else clampCount .f32 r.code (addCount (numOf .f32 r.code) 24 [term p0 a0 b0, term p1 a1 b1, (c.x, c.c, c.full)]))
  (r.1, countPut .f32 0 0 r.2 r.1)

/-- FDOT2 (R170). -/
def execFdot2 (h : Hd) (f : Fmt) (mode : RMode) (m : Mods) (d a : VR) (b : BSrc) (c : VR) :
    State → Host.Outcome State Fault Refusal :=
  strandExec h (needV .va f [(0, d.val)] [(1, a.val)] b [(3, c.val)]) fun v =>
    v.putFloat h 6 b.len .f32 d.val fun i =>
      dot2Word f mode m (v.nan i) (fun k => (v.srcV f a.val i).opd f k) (fun k => (v.srcB f b i).opd f k)
        ((v.srcV .f32 c.val i).opd .f32 0)

/-! ### Reciprocal, roots and special functions (R171, R172) -/

/-- FRCP -/
def execFrcp (h : Hd) (f : Fmt) (mode : RMode) (m : Mods) (d a : VR) :
    State → Host.Outcome State Fault Refusal := fnExec h .rcp f mode m d a
/-- FSQRT -/
def execFsqrt (h : Hd) (f : Fmt) (mode : RMode) (m : Mods) (d a : VR) :
    State → Host.Outcome State Fault Refusal := fnExec h .sqrt f mode m d a
/-- FRSQ -/
def execFrsq (h : Hd) (f : Fmt) (mode : RMode) (m : Mods) (d a : VR) :
    State → Host.Outcome State Fault Refusal := fnExec h .rsq f mode m d a
/-- FEXP2 -/
def execFexp2 (h : Hd) (f : Fmt) (mode : RMode) (m : Mods) (d a : VR) :
    State → Host.Outcome State Fault Refusal := fnExec h .exp2 f mode m d a
/-- FLOG2 -/
def execFlog2 (h : Hd) (f : Fmt) (mode : RMode) (m : Mods) (d a : VR) :
    State → Host.Outcome State Fault Refusal := fnExec h .log2 f mode m d a
/-- FSIN -/
def execFsin (h : Hd) (f : Fmt) (mode : RMode) (m : Mods) (d a : VR) :
    State → Host.Outcome State Fault Refusal := fnExec h .sin f mode m d a
/-- FCOS -/
def execFcos (h : Hd) (f : Fmt) (mode : RMode) (m : Mods) (d a : VR) :
    State → Host.Outcome State Fault Refusal := fnExec h .cos f mode m d a
/-- FTANH -/
def execFtanh (h : Hd) (f : Fmt) (mode : RMode) (m : Mods) (d a : VR) :
    State → Host.Outcome State Fault Refusal := fnExec h .tanh f mode m d a

/-! ### Conversion and quantisation (R173 to R178) -/

/-- What a conversion of one lane gives: code, tag, additions to QSAT and QUND, and the lane's generator. -/
structure LaneOut where
  code : Nat
  tag : Byte
  qsat : Nat := 0
  qund : Nat := 0
  gen : Word
  deriving DecidableEq, Repr

/-- What one element becomes: code, count (none where it is untracked), saturated, flushed, and the generator. -/
structure ElemOut where
  code : Nat
  cnt : Option Nat := none
  sat : Bool := false
  und : Bool := false
  gen : Word
  deriving DecidableEq, Repr

/-- conv (R175). -/
def convElem (src dst : Fmt) (mode : RMode) (sat : Bool) (o : NanSrc) (a : Opd) (g : Word) : ElemOut :=
  if !src.isFloat && !dst.isFloat then
    let v := a.x.atScale 0
    { code := intCode dst (if sat then clampInt dst v else v), gen := g }
  else match a.x with
    | .nan s f c => { code := nanTo f c s dst o, cnt := some 0, sat := dst == .fp4, gen := g }
    | x =>
      let r := roundGen dst x mode sat g
      let code := r.1.code
      let und := x.isNonzero && (numOf dst code).isZero
      let c := if src.isFloat then min a.c (dst.prec code) else dst.prec code
      { code, cnt := some (if r.1.ovf || und then 0 else clampCount dst code c), sat := r.1.ovf, und, gen := r.2 }

/-- A conversion's elements put one after another into a word and its tag. -/
def convLane (dst : Fmt) (pairs : List (Nat × Nat)) (conv : Nat → Word → ElemOut) (old : Src) (g : Word) : LaneOut :=
  pairs.foldl (fun r p =>
    let e := conv p.1 r.gen
    { code := setElem dst r.code p.2 e.code
      tag := if dst.isFloat then storeCount dst r.tag p.2 e.code e.cnt else 0xFF
      qsat := r.qsat + b2n e.sat, qund := r.qund + b2n e.und, gen := e.gen }) { code := old.code, tag := old.tag, gen := g }

/-- A conversion's results: words and tags in flight with the QSAT and QUND additions, generators advanced. -/
def View.putConv (v : View) (h : Hd) (len : Nat) (dst : Fmt) (d : Nat) (elems : Nat) (counts : Bool)
    (r : Nat → LaneOut) : State :=
  let lanes := v.st.acting h
  let outs := maskLanes lanes
  let sum := fun g : LaneOut → Nat => if counts then outs.foldl (fun n i => n + g (r i)) 0 else 0
  let gen := Vector.ofFn fun i : Fin 32 => if lanes.getLsbD i.val then (r i.val).gen else v.st.gen[i]
  let ws := v.resultWrites dst d lanes fun i => ((r i).code, (r i).tag)
  let v1 := if dst.isFloat then v.flyChecked h 6 dst [d] elems ws (sum LaneOut.qsat) (sum LaneOut.qund)
    else
      let fl : Flight := { seq := v.s.nextSeq, issuedAt := v.s.clock, landAt := v.s.clock + 6, v := ws, qsat := sum LaneOut.qsat,
                           qund := sum LaneOut.qund }
      { v with s := { v.s with nextSeq := v.s.nextSeq + 1 }, st := { v.st with flights := v.st.flights ++ [fl] } }
  ({ v1 with st := { v1.st with gen } }.advance len).put

/-- The element pairs of a CVT: source element, destination element (R174). -/
def cvtPairs (dst src : Fmt) (part : Nat) : List (Nat × Nat) :=
  if src.elems ≤ dst.elems then (List.range src.elems).map fun j => (j, part * src.elems + j)
  else (List.range dst.elems).map fun j => (part * dst.elems + j, j)

/-- A mask of the destination elements of pairs. -/
def pairMask (l : List (Nat × Nat)) : Nat := l.foldl (fun m p => m + 2 ^ p.2) 0

/-- The generator of a lane. -/
def Strand.genOf (st : Strand) (i : Nat) : Word := (st.gen[i]?).getD 1

/-- CVT (R173 to R175). -/
def execCvt (h : Hd) (dst src : Fmt) (mode : RMode) (m : Mods) (d a : VR) (part : Fin 8) :
    State → Host.Outcome State Fault Refusal :=
  strandExec h { port := .vx, len := 8, f64 := dst == .f64 || src == .f64, named := vNames dst 0 d ++ vNames src 1 a,
                 readsD := dst.elems > 1 } fun v =>
    let pairs := cvtPairs dst src part.val
    v.putConv h 8 dst d.val (pairMask pairs) (dst == .m8 || dst == .fp4 || dst == .e4m3) fun i =>
      let av := v.srcV src a.val i
      convLane dst pairs (fun k g => convElem src dst mode m.sat (v.nan i) ((av.opd src k).map (m.onElem src)) g)
        (v.srcV dst d.val i) (v.st.genOf i)

/-- The element QNT writes (R177). -/
def qntElem (f : Fmt) (mode : RMode) (sat : Bool) (a b : Opd) (g : Word) : ElemOut :=
  match a.x.div b.x with
  | .nan .. | .bad => { code := if f = .m8 then 0x80 else 0, cnt := some 0, sat := f != .m8, gen := g }
  | x =>
    let r := roundGen f x mode sat g
    let code := r.1.code
    let und := x.isNonzero && (numOf f code).isZero
    { code, cnt := some (if r.1.ovf || und then 0 else clampCount f code (min (mulCount a b) (f.prec code))),
      sat := r.1.ovf, und, gen := r.2 }

/-- QNT (R176, R177). -/
def execQnt (h : Hd) (f : Fmt) (mode : RMode) (sat : Bool) (d a : VR) (b : BSrc) (part : Fin 8) :
    State → Host.Outcome State Fault Refusal :=
  strandExec h { needV .vx .f32 [(0, d.val)] [(1, a.val)] b [] with readsD := true } fun v =>
    v.putConv h b.len f d.val (2 ^ part.val) true fun i =>
      convLane f [(0, part.val)]
        (fun _ g => qntElem f mode sat ((v.srcV .f32 a.val i).opd .f32 0) ((v.srcB .f32 b i).opd .f32 0) g)
        (v.srcV f d.val i) (v.st.genOf i)

/-- The word DQNT writes (R177). -/
def dqntWord (f : Fmt) (mode : RMode) (o : NanSrc) (a b : Opd) : Nat × Byte :=
  let a := if f = .i8 then { a with c := 24, full := true } else a
  let r : Nat × Nat :=
    if a.x.isNan then (originNan .f32 o, 0)
    else match b.x with
      | .nan s g c => (nanTo g c s .f32 o, 0)
      | y =>
        let x := a.x.mul y
        if x = .bad then (originNan .f32 o, 0)
        else
          let r := roundTo .f32 x mode false 0
          (r.code, if r.ovf || (x.isNonzero && (numOf .f32 r.code).isZero) then 0
                   else clampCount .f32 r.code (mulCount a b))
  (r.1, countPut .f32 0 0 r.2 r.1)

/-- DQNT (R176, R177). -/
def execDqnt (h : Hd) (f : Fmt) (mode : RMode) (d a : VR) (b : BSrc) (part : Fin 8) :
    State → Host.Outcome State Fault Refusal :=
  strandExec h (needV .vx .f32 [(0, d.val)] [(1, a.val)] b []) fun v =>
    v.putFloat h 6 b.len .f32 d.val fun i =>
      dqntWord f mode (v.nan i) ((v.srcV f a.val i).opd f part.val) ((v.srcB .f32 b i).opd .f32 0)

/-! ### Rotary angles (R179, R180) -/

/-- An F32 word with its count. -/
def f32Word (code : Nat) (c : Int) : Nat × Byte := (code, countPut .f32 0 0 (clampCount .f32 code c) code)

/-- A cosine or sine of the angle as an operand, or none where the angle is no number. -/
def angleOpd (g : Fn) (th : Num) (cw : Nat) : Option Opd :=
  let x := g.apply th
  if x = .bad then none
  else
    let code := (roundTo .f32 x .rn false 0).code
    some { x := numOf .f32 code, c := clampCount .f32 code ((min cw 24 : Nat) - 2), tracked := true, full := false }

/-- x × p + y × q with one rounding, and its count. -/
def rotWord (o : NanSrc) (x p y q : Opd) : Nat × Byte :=
  let s := (x.x.mul p.x).add false (y.x.mul q.x)
  if s = .bad then f32Word (originNan .f32 o) 0
  else
    let r := roundTo .f32 s .rn false 0
    let term := fun (u w : Opd) => (u.x.mul w.x, min (mulCount u w) 24, decide (24 ≤ mulCount u w))
    f32Word r.code (if r.ovf then 0 else addCount (numOf .f32 r.code) 24 [term x p, term y q])

/-- The words ANGROT writes in a lane (R180). -/
def angWords (op : AngOp) (o : NanSrc) (x y w : Opd) (pos : Nat) : List (Nat × Byte) :=
  let all := fun (r : Nat × Byte) => if op = .rot then [r, r] else [r]
  match firstNan (if op = .rot then [x.x, y.x, w.x] else [w.x]) with
  | some n => all (f32Word (n.nanCode .f32 o) 0)
  | none =>
    if 2 ^ 24 ≤ pos then all (f32Word (originNan .f32 o) 0)
    else
      let th := (Num.fin false pos 0).mul w.x
      match angleOpd .cos th w.c, angleOpd .sin th w.c with
      | some co, some si => match op with
        | .cos => [((roundTo .f32 co.x .rn false 0).code, countPut .f32 0 0 co.c 0)]
        | .sin => [((roundTo .f32 si.x .rn false 0).code, countPut .f32 0 0 si.c 0)]
        | .rot => [rotWord o x co y (si.map Num.negate), rotWord o x si y co]
      | _, _ => all (f32Word (originNan .f32 o) 0)

/-- ANGROT (R179, R180). -/
def execAngrot (h : Hd) (op : AngOp) (d a : VR) (b : BSrc) (c : VR) : State → Host.Outcome State Fault Refusal :=
  let rot := op == .rot
  let named := if rot then [(0, d.val), (0, d.val + 1), (1, a.val), (1, a.val + 1)] else [(0, d.val)]
  strandExec h { port := .vx, occ := 4, len := b.len, named := named ++ b.vs .b32 ++ [(3, c.val)], sregs := b.ss .b32 } fun v =>
    let lanes := v.st.acting h
    let words := fun i =>
      angWords op (v.nan i) ((v.srcV .f32 a.val i).opd .f32 0) ((v.srcV .f32 (a.val + 1) i).opd .f32 0)
        ((v.srcV .f32 c.val i).opd .f32 0) (v.srcB .b32 b i).code
    let one := fun k => v.vwrites (d.val + k) lanes fun i =>
      let r := (words i).getD k (0, 0xFF)
      (BitVec.ofNat 32 r.1, r.2)
    ((v.flyChecked h (if rot then 22 else 18) .f32 (if rot then [d.val, d.val + 1] else [d.val]) 1
      (one 0 ++ if rot then one 1 else []) 0 0).advance b.len).put

/-! ### NaN payloads (R181) -/

/-- NANPL's word for a code. -/
def nanplWord (f : Fmt) (code : Nat) : Nat :=
  if (numOf f code).isNan then
    let top := 2 ^ 31 + b2n (tbit code (quietBit f)) * 2 ^ 30
    match f with
    | .f32 => top + 3 * 2 ^ 28 + code % 2 ^ 22
    | .f16 => top + bits code 8 4 * 2 ^ 17 + code % 16
    | _ => top + 2 ^ 28 + bits code 5 1 * 2 ^ 17 + bits code 0 0 * 2 ^ 16
  else 0

/-- NANPL (R181). -/
def execNanpl (h : Hd) (f : Fmt) (d a : VR) (elem1 : Bool) : State → Host.Outcome State Fault Refusal :=
  strandExec h { port := .vx, len := 8, named := [(0, d.val), (1, a.val)] } fun v =>
    v.putWords h 4 8 d.val fun i => nanplWord f (elemAt f (v.srcV f a.val i).code (b2n elem1))

/-! ### Significance instructions (R182 to R186) -/

/-- count_of (R159). -/
def Src.count (r : Src) (f : Fmt) (k : Nat) : Nat × Bool := countGet f r.tag k (elemAt f r.code k)

/-- SIGQ (R183). -/
def execSigq (h : Hd) (f : Fmt) (sel : Fin 9) (pd : PR) (a : VR) (b : BSrc) (comb : Comb) :
    State → Host.Outcome State Fault Refusal :=
  strandExec h { port := .vx, len := b.len, f64 := f == .f64, named := vNames f 1 a ++ b.vs .b32, sregs := b.ss .b32,
                 preds := pd :: comb.reads } fun v =>
    (((v.setComb h pd comb fun i =>
      let r := v.srcV f a.val i
      let th := (v.srcB .b32 b i).code
      (if sel.val = 0 then List.range f.elems else [sel.val - 1]).any fun k =>
        let c := r.count f k
        c.2 && decide (c.1 < th)).hold 4 [pd] false).advance b.len).put

/-- SIGGET (R184). -/
def execSigget (h : Hd) (f : Fmt) (d a : VR) (k : Fin 8) : State → Host.Outcome State Fault Refusal :=
  strandExec h { port := .vx, len := 8, f64 := f == .f64, named := (0, d.val) :: vNames f 1 a } fun v =>
    v.putWords h 4 8 d.val fun i =>
      let c := (v.srcV f a.val i).count f k.val
      if c.2 then c.1 else 0xFFFFFFFF

/-- The tag byte SIGSET writes (R185). -/
def sigsetTag (f : Fmt) (r : Src) (k v : Nat) : Byte :=
  if v = 0xFFFFFFFF then 0xFF else countPut f r.tag k v (elemAt f r.code k)

/-- SIGSET (R185). -/
def execSigset (h : Hd) (f : Fmt) (d : VR) (b : BSrc) (k : Fin 8) : State → Host.Outcome State Fault Refusal :=
  strandExec h { port := .vx, len := b.len, f64 := f == .f64, readsD := true, named := vNames f 0 d ++ b.vs .b32,
                 sregs := b.ss .b32 } fun v =>
    ((v.fly 4 (v.resultWrites f d.val (v.st.acting h) fun i =>
      let r := v.srcV f d.val i
      (r.code, sigsetTag f r k.val (v.srcB .b32 b i).code)) []).advance b.len).put

/-- SIGMIN's word: the lowest tracked count, the lowest lane that holds it, and its lowest element there (R186). -/
def sigminWord (l : List (Nat × Nat × Nat)) : Nat :=
  match l with
  | [] => 0xFFFFFFFF
  | x :: xs =>
    let r := xs.foldl (fun (m : Nat × Nat × Nat) e => if e.1 < m.1 then e else m) x
    r.1 + r.2.1 * 256 + r.2.2 * 8192

/-- SIGMIN (R186). -/
def execSigmin (h : Hd) (f : Fmt) (sd : SR) (a : VR) : State → Host.Outcome State Fault Refusal :=
  onceExec h { port := .ctl, len := 8, f64 := f == .f64, named := vNames f 1 a, sregs := [sd.val] } fun v =>
    let l := (maskLanes (v.st.acting h)).flatMap fun i => (List.range f.elems).filterMap fun k =>
      let c := (v.srcV f a.val i).count f k
      if c.2 then some (c.1, i, k) else none
    v.putS 6 8 [(sd.val, BitVec.ofNat 32 (sigminWord l))]

end Sys2Proof.Machine
end

