-- ==== Sys2Proof/Machine/Matrix.lean ====
section
/-! DEFINITION. Registers V: what the matrix engine computes (R107 to R111, R118, R208 to R219). -/

namespace Sys2Proof.Machine

/-! ### Shapes (R108, R208, R210) -/

/-- K of a format. -/
def matK (f : Fmt) : Nat :=
  match f with
  | .f16 | .bf16 => 32
  | .fp4 => 128
  | _ => 64

/-- A block size from its code. -/
def blockSize (code : Nat) : Nat := 16 * 2 ^ code

/-- The number of an engine format's FMT code, if MMA takes it (R213). -/
def matFmt (code : Nat) : Option Fmt :=
  match code with
  | 1 => some .f16
  | 2 => some .bf16
  | 3 => some .m8
  | 4 => some .fp4
  | 10 => some .i8
  | _ => none

/-- The run length (R108). -/
def runLength (f : Fmt) (blocks : Option (Nat × Nat)) : Nat :=
  match f with
  | .f16 | .bf16 => 8
  | .i8 => 64
  | _ => match blocks with
    | some (a, b) => min a b
    | none => 16

/-! ### Descriptors (R211) -/

/-- What an operation takes from its X register: tensor scales, FP4 extra values, and the I8 zero point. -/
structure TensorDesc where
  tsA : Nat := 0x3F800000
  tsB : Nat := 0x3F800000
  exA : Option Nat := none
  exB : Option Nat := none
  zA : Int := 0
  deriving DecidableEq, Repr

/-- The fields of an X register. -/
def tensorDesc (x : BitVec 128) : TensorDesc :=
  let n := x.toNat
  { tsA := bits n 31 0, tsB := bits n 63 32, exA := if tbit n 104 then some (bits n 79 64) else none
    exB := if tbit n 105 then some (bits n 95 80) else none, zA := elemInt .i8 (bits n 103 96) 0 }

/-! ### Operands -/

/-- The operands of one operation: the words of its tiles by tile, register and lane, its 128 scale bytes of A and of B, its
block sizes, and its descriptor. -/
structure MatIn where
  f : Fmt
  word : Nat → Nat → Nat → Word × Byte
  scaleA : Nat → Nat
  scaleB : Nat → Nat
  blocks : Option (Nat × Nat)
  desc : TensorDesc
  pc : DWord

/-- Element k of row i of an A tile, or of column i of a B tile: its word, tag and place in the word (R208). -/
def MatIn.elem (m : MatIn) (tile i k : Nat) : Nat × Byte × Nat :=
  let half := i * 128 + k * m.f.width / 4
  let o := half / 2
  let w := m.word tile (o / 128) (o / 4 % 32)
  (w.1.toNat, w.2, k % m.f.elems)

/-- An operand element as a number and its count; FP4 code 1000 reads as the extra value where there is one (R211,
R215). -/
def MatIn.opd (m : MatIn) (ex : Option Nat) (tile i k : Nat) : Opd :=
  let e := m.elem tile i k
  let code := elemAt m.f e.1 e.2.2
  let o := opdOf m.f code e.2.1 e.2.2
  match m.f, ex with
  | .fp4, some x => if code = 8 then { o with x := numOf .f16 x } else o
  | _, _ => o

/-- An I8 element. -/
def MatIn.int (m : MatIn) (tile i k : Nat) : Int :=
  let e := m.elem tile i k
  elemInt .i8 e.1 e.2.2

/-- The scale code of row or column i for element k (R107, R210). -/
def scaleAt (f : Fmt) (scale : Nat → Nat) (bs : Option Nat) (i k : Nat) : Nat :=
  match bs with
  | none => 127
  | some n => scale (i * (matK f / n) + k / n)

/-- A value times a power of two. -/
def Num.scale (x : Num) (e : Int) : Num :=
  match x with
  | .fin s m k => .fin s m (k + e)
  | y => y

/-- An F32 number rounded from an exact one in RN; an invalid one stays so. -/
def toF32 (x : Num) : Num × Bool :=
  match x with
  | .bad | .nan .. => (x, false)
  | y => let r := roundTo .f32 y .rn false 0
         (numOf .f32 r.code, r.ovf)

/-! ### One element of D (R109, R110, R118) -/

/-- The exact sum of the products of a list of elements. -/
def runSum (a b : Nat → Num) (ks : List Nat) : Num :=
  match ks with
  | [] => .fin false 0 0
  | k :: r => r.foldl (fun s k => s.add false ((a k).mul (b k))) ((a k).mul (b k))

/-- The element sums over runs (R109). -/
def runsSum (f : Fmt) (run : Nat) (a b : Nat → Num) (sc : Nat → Int) : Num × Bool :=
  (List.range (matK f / run)).foldl (fun acc r =>
    let s := (runSum a b ((List.range run).map (r * run + ·))).scale (sc (r * run))
    let x := toF32 (acc.1.add false s)
    (x.1, acc.2 || x.2)) (.fin false 0 0, false)

/-- An element of a floating-point D: its code and its count. `i` and `j` are its row and column for the scales, `ia` and
`jb` in the tiles, `c` the addend. -/
def matFloat (m : MatIn) (ta tb i j ia jb lane : Nat) (c : Opd) : Nat × Nat :=
  let ks := List.range (matK m.f)
  let a := fun k => m.opd m.desc.exA ta ia k
  let b := fun k => m.opd m.desc.exB tb jb k
  let tsA := opdOf .f32 m.desc.tsA 0xFF 0
  let tsB := opdOf .f32 m.desc.tsB 0xFF 0
  let o : NanSrc := ⟨lane, 1, m.pc⟩
  match firstNan (ks.map (fun k => (a k).x) ++ ks.map (fun k => (b k).x) ++ [c.x, tsA.x, tsB.x]) with
  | some n => (n.nanCode .f32 o, 0)
  | none =>
    let sa := fun k => scaleAt m.f m.scaleA (m.blocks.map (·.1)) i k
    let sb := fun k => scaleAt m.f m.scaleB (m.blocks.map (·.2)) j k
    let sc := fun k => (sa k : Int) + sb k - 254
    let ts := (toF32 (tsA.x.mul tsB.x)).1
    let acc := runsSum m.f (runLength m.f m.blocks) (fun k => (a k).x) (fun k => (b k).x) sc
    let x := (ts.mul acc.1).add false c.x
    if (ks.any fun k => sa k == 255 || sb k == 255) || x = .bad then (originNan .f32 o, 0)
    else
      let r := roundTo .f32 x .rn false 0
      let term := fun k =>
        let n := mulCount (a k) (b k)
        if ts.isZero then (Num.fin false 0 0, 24, true)
        else ((ts.mul ((a k).x.mul (b k).x)).scale (sc k), min n 24, decide (fullCount ≤ n))
      (r.code, if r.ovf then 0 else clampCount .f32 r.code (addCount (numOf .f32 r.code) 24 (ks.map term ++ [(c.x, c.c, c.full)])))

/-- An element of an I8 D (R111). -/
def matInt (m : MatIn) (ta tb ia jb : Nat) (c : Nat) : Nat :=
  let s := (List.range 64).foldl (fun (s : Int) k => s + (m.int ta ia k - m.desc.zA) * m.int tb jb k) c
  intCode .i32 s

/-- The word and tag of an element of D (R209). -/
def matWord (m : MatIn) (ta tb i j ia jb lane : Nat) (c : Option (Word × Byte)) : Word × Byte :=
  if m.f = .i8 then (BitVec.ofNat 32 (matInt m ta tb ia jb ((c.map fun w => w.1.toNat).getD 0)), 0xFF)
  else
    let addend := match c with
      | some w => opdOf .f32 w.1.toNat w.2 0
      | none => opdOf .f32 0 24 0
    let r := matFloat m ta tb i j ia jb lane addend
    (BitVec.ofNat 32 r.1, countPut .f32 0 0 r.2 r.1)

/-- A result tile: row and column offsets of its elements in the whole product, for the scales (R215, R218). -/
def matTile (m : MatIn) (td ta tb : Nat) (tc : Option Nat) (row col : Nat) : List VWrite :=
  (List.range 256).map fun n =>
    let i := n / 16
    let j := n % 16
    let lane := n % 32
    let w := matWord m ta tb (row + i) (col + j) i j lane (tc.map fun t => m.word t (n / 32) lane)
    { tile := td, reg := n / 32, lane, word := w.1, tag := w.2 }

/-- MZERO's tile (R219). -/
def zeroTile (td : Nat) : List VWrite :=
  (List.range 256).map fun n => { tile := td, reg := n / 32, lane := n % 32, word := 0, tag := 0x18 }

/-! ### Slots of the M kind -/

/-- Tiles an operation writes, and the A, B and C tiles it reads, in the order of R237 (R217). -/
def MSlot.tiles (m : MSlot) : List Nat × List Nat :=
  let d := m.d.toNat
  let q4 := List.range 4
  match m.op.toNat with
  | 0 => ([d], [m.a.toNat, m.b.toNat] ++ if m.acc = 1 then [m.c.toNat] else [])
  | 1 =>
      let sixteen := fun t => ((q4.flatMap fun q => q4.map fun k => t + 128 * q + k))
      (sixteen d, (q4.map fun q => m.a.toNat + 128 * q) ++ (q4.map fun q => m.b.toNat + 128 * q) ++
        if m.acc = 1 then sixteen m.c.toNat else [])
  | 2 => ([d], [])
  | _ => ([], [])

/-- The occupancy of an operation and its weight in each clock (R220, R231). -/
def MSlot.cost (m : MSlot) : Nat × Nat :=
  let w := match m.fmtA.toNat with
    | 1 | 2 => 20
    | 4 => 28
    | _ => 24
  match m.op.toNat with
  | 0 => (8, w)
  | 1 => (128, w)
  | _ => (1, 4)

/-- The block sizes a slot names. -/
def MSlot.blocks (m : MSlot) : Option (Nat × Nat) :=
  if m.z = 31 then none else some (blockSize m.bsA.toNat, blockSize m.bsB.toNat)

/-- The results of an operation. -/
def MSlot.results (m : MSlot) (x : MatIn) : List VWrite :=
  let d := m.d.toNat
  let a := m.a.toNat
  let b := m.b.toNat
  let c := if m.acc = 1 then some m.c.toNat else none
  let q4 := List.range 4
  match m.op.toNat with
  | 0 => matTile x d a b c 0 0
  | 1 => q4.flatMap fun q => q4.flatMap fun k =>
      matTile x (d + 128 * q + k) (a + 128 * q) (b + 128 * k) (c.map fun t => t + 128 * q + k) (16 * q) (16 * k)
  | _ => zeroTile d

/-- Does a D tile number of an MMAQ stand for rows and columns of the product: its place in row-major order (R226). -/
def matOrder (tiles : List Nat) (w : VWrite) : Nat :=
  let n := w.reg * 32 + w.lane
  if tiles.length = 1 then n
  else
    let q := w.tile / 128
    let k := w.tile % 4
    (16 * q + n / 16) * 64 + 16 * k + n % 16

/-- The element of the results that fails the significance check first: tile, index and count (R225, R226). -/
def matFailure (tiles : List Nat) (ws : List VWrite) (mth : Nat) : Option (Nat × Nat × Nat) :=
  let bad := ws.filter fun w => decide ((countGet .f32 w.tag 0 w.word.toNat).1 < mth)
  match bad with
  | [] => none
  | w :: rest =>
      let f := rest.foldl (fun best w => if matOrder tiles w < matOrder tiles best then w else best) w
      some (f.tile, f.reg * 32 + f.lane, (countGet .f32 f.tag 0 f.word.toNat).1)

end Sys2Proof.Machine
end

