-- ==== Sys2Proof/Machine/Legal.lean ====
section
/-! DEFINITION. Registers IV: the slots of a bundle, what each reads and writes, and the legality of a bundle (R58 to R64,
R81, R82, R85, R88, R193, R199, R213, R217, R219, R227, R236, R292, R296, R359, R415, R418, R424, R427). Slots are numbered
by their commit index: 0 S, 1 V0, 2 V1, 3 M, 4 L, 5 W, 6 K, 7 C, 8 Y. -/

namespace Sys2Proof.Machine

/-- The commit indices. -/
def slotIxs : List Nat := List.range 9

/-- The bit of a slot in PRES and in an offending-slot mask (R63). -/
def slotBit (ix : Nat) : Nat := 2 ^ (8 - ix)

/-- Is a slot present? -/
def present (b : Bundle) (ix : Nat) : Bool := b.pres.getLsbD (8 - ix)

/-- V0 or V1. -/
def vSlot (b : Bundle) (ix : Nat) : VSlot := if ix = 1 then b.v0 else b.v1

/-- The bits of a slot. -/
def slotBits (b : Bundle) (ix : Nat) : Nat :=
  match ix with
  | 0 => b.s.bits.toNat
  | 1 => b.v0.bits.toNat
  | 2 => b.v1.bits.toNat
  | 3 => b.m.bits.toNat
  | 4 => b.l.bits.toNat
  | 5 => b.w.bits.toNat
  | 6 => b.k.bits.toNat
  | 7 => b.c.bits.toNat
  | _ => b.y.bits.toNat

/-- The opcode of a slot. -/
def slotOp (b : Bundle) (ix : Nat) : Nat :=
  match ix with
  | 0 => b.s.op.toNat
  | 1 => b.v0.op.toNat
  | 2 => b.v1.op.toNat
  | 3 => b.m.op.toNat
  | 4 => b.l.op.toNat
  | 5 => b.w.op.toNat
  | 6 => b.k.op.toNat
  | 7 => b.c.op.toNat
  | _ => b.y.op.toNat

/-- The operations of a slot have the codes below this (R81). -/
def opLimit (ix : Nat) : Nat :=
  match ix with
  | 0 => 18
  | 1 | 2 => 13
  | 3 => 3
  | 4 => 3
  | 5 => 4
  | 6 => 2
  | 7 => 3
  | _ => 9

/-- The first code of a slot's extension range (R83). -/
def extStart (ix : Nat) : Nat :=
  match ix with
  | 0 | 1 | 2 => 48
  | 8 => 24
  | _ => 12

/-- Does a slot hold an extension operation? -/
def isExt (b : Bundle) (ix : Nat) : Bool := decide (extStart ix ≤ slotOp b ix)

/-- Does a slot hold an operation of R81? -/
def isOp (b : Bundle) (ix : Nat) : Bool := decide (slotOp b ix < opLimit ix)

/-- How many A registers the operation of a slot reads (R81, R85). -/
def aReads (b : Bundle) (ix : Nat) : Nat :=
  if !isOp b ix then 0
  else
    let op := slotOp b ix
    match ix with
    | 0 => if op ≤ 8 || op == 10 then (if b.s.i = 1 then 1 else 2) else if op == 11 then b2n (b.s.sub != 0) else b2n (op == 17)
    | 1 | 2 => b2n (op == 5 || op == 10)
    | 4 | 6 => 1
    | 5 => if op = 2 then 2 else 1
    | 7 => if op = 2 then 2 else 4
    | 8 => b2n (op == 5)
    | _ => 0

/-- The tiles the operation of a slot reads, in the order of R237, and those it writes. -/
def slotTiles (b : Bundle) (ix : Nat) : List Nat × List Nat :=
  if !isOp b ix then ([], [])
  else
    let op := slotOp b ix
    match ix with
    | 1 | 2 =>
        let v := vSlot b ix
        ((if op == 2 || op == 11 then [v.dtile.toNat] else []) ++ (if op == 10 || op == 12 then [] else [v.atile.toNat]) ++
          (if op ≤ 4 || op == 8 || op == 9 || op == 11 then [v.btile.toNat] else []), [v.dtile.toNat])
    | 3 => ((MSlot.tiles b.m).2, (MSlot.tiles b.m).1)
    | 4 => ([], if op = 2 then [] else [b.l.dtile.toNat])
    | 5 => (if op = 3 then [] else if op = 2 then (List.range 4).map (b.w.stile.toNat + ·) else [b.w.stile.toNat], [])
    | _ => ([], [])

/-- The tile registers a slot writes: a tile and a mask of its registers. -/
def slotWrites (b : Bundle) (ix : Nat) : List (Nat × Nat) :=
  (slotTiles b ix).2.map fun t => (t, if ix = 1 || ix = 2 then 2 ^ (vSlot b ix).dreg.toNat else 255)

/-! ### Fields of each slot -/

/-- The fields of an S slot (R193). -/
def sFields (s : SSlot) : Bool :=
  let op := s.op.toNat
  let sub := s.sub.toNat
  s.z == 0 && (s.i == 0 || op ≤ 8 || op == 10) &&
  (if op ≤ 8 || op == 10 then (if s.i = 1 then s.b == 0 else s.imm == 0) && (if op = 10 then decide (sub ≤ 7) else sub == 0)
   else if op = 9 then s.a == 0 && s.b == 0 && decide (sub ≤ 2)
   else if op = 11 then s.d == 0 && s.b == 0 && decide (sub ≤ 6) && (sub != 0 || s.a == 0)
   else if op = 12 then decide (s.d.toNat < 4) && s.a == 0 && s.b == 0 && decide (sub ≤ 1)
   else if op = 13 then s.d == 0 && s.a == 0 && s.b == 0 && decide (s.imm.toNat < 512) && sub == 0
   else if op ≤ 15 then s.d == 0 && s.a == 0 && s.b == 0 && s.imm == 0 && sub == 0
   else if op = 16 then s.a == 0 && s.b == 0 && decide (s.imm.toNat < 4096) && sub == 0
   else s.d == 0 && s.b == 0 && decide (s.imm.toNat < 4096) && sub == 0)

/-- The CSRs a Capstan may read (R247). -/
def capReadable (n : Nat) : Bool :=
  [0x00, 0x01, 0x02, 0x03, 0x04, 0x10, 0x11, 0x16, 0x17, 0x21, 0x22, 0x30, 0x31, 0x32, 0x33, 0x34, 0x35, 0x36, 0x37, 0x40,
   0x41, 0x42, 0x50, 0x52, 0x53].contains n

/-- The CSRs a Capstan may write. -/
def capWritable (n : Nat) : Bool := n == 0x22 || n == 0x50

/-- A value that CSTAT accepts (R192). -/
def cstatOk (w : Nat) : Bool := decide (bits w 12 8 ≤ 24) && bits w 7 6 == 0 && bits w 31 14 == 0

/-- A V slot's format codes of F32, F16 and BF16, of VCVT, or of any. -/
def vFmt (code : Nat) : Option Fmt :=
  match code with
  | 0 => some .f32
  | 1 => some .f16
  | 2 => some .bf16
  | 3 => some .m8
  | 4 => some .fp4
  | 5 => some .e4m3
  | 6 => some .e5m2
  | _ => none

/-- The fields of a VCVT (R202). -/
def vcvtFields (v : VSlot) : Bool :=
  match vFmt v.fmt.toNat, vFmt v.sub.toNat with
  | some d, some s =>
      v.fmt != v.sub && v.sa == 0 && v.btile == 0 &&
      (if s.elems ≤ d.elems then v.areg.toNat % (d.elems / s.elems) == 0 && v.breg == 0
       else decide (v.breg.toNat < s.elems / d.elems))
  | _, _ => false

/-- The lanes a V slot touches fit its width (R63, R197). -/
def vLanesOk (v : VSlot) : Bool :=
  let u := 2 ^ v.width.toNat
  decide (v.width.toNat < 3) && decide (v.lg.toNat + u ≤ 4) && v.lg.toNat % u == 0

/-- The fields of a V slot (R199). -/
def vFields (v : VSlot) : Bool :=
  let op := v.op.toNat
  let sub := v.sub.toNat
  let small := decide (v.fmt.toNat ≤ 2)
  let noA := v.atile == 0 && v.areg == 0
  let noB := v.btile == 0 && v.breg == 0
  vLanesOk v &&
  (if op ≤ 2 || op == 9 then small && v.sa == 0 && decide (sub ≤ 3)
   else if op ≤ 4 || op == 8 then small && v.sa == 0 && sub == 0
   else if op = 5 then small && noB && decide (sub ≤ 3)
   else if op = 6 then vcvtFields v
   else if op = 7 then small && noB && v.sa == 0 && decide (sub ≤ 3)
   else if op = 10 then v.fmt == 14 && noA && noB && decide (sub ≤ 1)
   else if op = 11 then v.fmt == 14 && v.sa == 0 && decide (sub ≤ 1)
   else v.fmt == 14 && noA && noB && v.sa == 0 && sub == 0)

/-- The block sizes of an M slot fit its format (R82, R213, R217). -/
def blocksOk (m : MSlot) (f : Fmt) : Bool :=
  if m.z = 31 then m.bsA == 0 && m.bsB == 0
  else m.z.toNat % 4 == 0 && f != .i8 && [m.bsA, m.bsB].all fun code =>
    let n := blockSize code.toNat
    matK f % n == 0 && (m.op != 1 || decide (64 * (matK f / n) ≤ 128))

/-- The fields of an M slot (R82, R213, R217, R219). -/
def mFields (m : MSlot) : Bool :=
  if m.op = 2 then
    m.fmtA == 0 && m.fmtB == 0 && m.bsA == 0 && m.bsB == 0 && m.a == 0 && m.b == 0 && m.c == 0 && m.z == 31 && m.x == 7 &&
    m.acc == 0 && m.sub == 0
  else match matFmt m.fmtA.toNat with
    | none => false
    | some f =>
      m.fmtB == m.fmtA && m.sub == 0 && (m.acc == 1 || m.c == 0) && blocksOk m f &&
      (m.op == 0 || (decide (m.a.toNat < 128) && decide (m.b.toNat < 128) && decide (m.d.toNat < 128) &&
        decide (m.c.toNat < 128) && m.d.toNat % 4 == 0 && m.c.toNat % 4 == 0))

/-- The layout of a row access: a stride up to 4,096, and the tag bit where it is allowed. -/
def layoutOk (tags : Bool) (lay : Nat) : Bool := decide (lay / 2 ≤ 6) && (tags || lay % 2 == 0)

/-- The fields of an L slot (R292). -/
def lFields (l : LSlot) : Bool :=
  l.sub == 0 && (if l.op = 2 then l.lb == 0 && l.layout == 0 else layoutOk (l.op == 0) l.layout.toNat)

/-- The fields of a W slot (R296). -/
def wFields (w : WSlot) : Bool :=
  w.z == 0 &&
  (if w.op = 2 then w.layout == 0 && w.stile.toNat % 4 == 0
   else w.rd == 0 && (if w.op = 3 then w.layout == 0 else layoutOk (w.op == 0) w.layout.toNat))

/-- The fields of a K slot (R227). -/
def kFields (k : KSlot) : Bool := k.op == 0 || decide (k.dst.toNat < 8)

/-- The fields of a C slot, with the group's gang size (R359). -/
def cFields (c : CSlot) (gangsize : Nat) : Bool :=
  let f := c.flags.toNat
  let path := c.path.toNat
  if c.op = 2 then path == 0 && c.dst == 0 && c.shape == 0 && f == 0
  else
    !tbit f 16 && (!tbit f 2 || decide (bits f 11 8 < gangsize)) &&
    (if c.op = 0 then decide (path ≤ 5) && (path == 0 || !tbit f 0) && bits f 15 12 == 0
     else (path == 1 || path == 3) && !tbit f 0 && decide (bits f 15 12 < gangsize))

/-- The fields of a Y slot, with the group's gang size and position (R236, R415, R418, R424, R427). -/
def yFields (y : YSlot) (gangsize gangpos : Nat) : Bool :=
  let id := y.id.toNat
  let none3 := y.tile == 0 && y.a == 0
  let p := id / 32 % 16
  match y.op.toNat with
  | 1 => y.a == 0 && y.scope == 0
  | 2 => y.id == 0 && y.a == 0 && y.scope == 0
  | 3 => none3 && id / 512 == 0 && decide (y.scope.toNat ≤ 1) && decide (p < gangsize) && (y.scope == 1 || p == gangpos)
  | 4 => none3 && id / 64 == 0 && decide (y.scope.toNat ≤ 1)
  | 5 => y.tile == 0 && y.scope == 0 && id / 8 == 0
  | 7 => none3 && y.id == 0
  | _ => none3 && y.id == 0 && y.scope == 0

/-! ### Legality -/

/-- The land-by field of a slot that has one. -/
def slotLb (b : Bundle) (ix : Nat) : Nat :=
  match ix with
  | 1 => b.v0.lb.toNat
  | 2 => b.v1.lb.toNat
  | 4 => b.l.lb.toNat
  | 6 => b.k.lb.toNat
  | _ => 0

/-- What a VER = 0 bundle does not allow in a slot (R63, R81, R82, R88). -/
def falwa1Bad (b : Bundle) (ix : Nat) : Bool :=
  slotLb b ix != 0 || isExt b ix ||
  (let op := slotOp b ix
   match ix with
   | 3 => op == 1 || b.m.x != 7
   | 5 => op == 2
   | 6 => op == 1
   | 8 => op == 8
   | _ => false)

/-- The fields of a present slot that holds an operation, with the group's gang; `w` is the value a CSRW of CSTAT would
write. -/
def fieldsOk (b : Bundle) (g : Group) (w : Nat) (ix : Nat) : Bool :=
  match ix with
  | 0 => sFields b.s && (b.s.op != 16 || capReadable b.s.imm.toNat) && (b.s.op != 17 || capWritable b.s.imm.toNat) &&
      (b.s.op != 17 || b.s.imm != 0x50 || cstatOk w)
  | 1 => vFields b.v0
  | 2 => vFields b.v1
  | 3 => mFields b.m
  | 4 => lFields b.l
  | 5 => wFields b.w
  | 6 => kFields b.k
  | 7 => cFields b.c g.gangsize
  | _ => yFields b.y g.gangsize g.gangpos

/-- The PORTn fields. -/
def ports (b : Bundle) : List Nat := [b.port0.toNat, b.port1.toNat, b.port2.toNat, b.port3.toNat]

/-- Is a port code one that names a slot or none (R61)? -/
def portOk (p : Nat) : Bool := p != 4 && decide (p ≤ 9)

/-- Ports that name a slot. -/
def portsOf (b : Bundle) (ix : Nat) : Nat := ((ports b).filter fun p => p == ix + 1).length

/-- Does a slot break a condition of its own? -/
def slotBad (b : Bundle) (g : Group) (w : Nat) (ix : Nat) : Bool :=
  if present b ix then
    (ix != 3 && portsOf b ix != aReads b ix) || (b.ver == 0 && falwa1Bad b ix) ||
    (!isExt b ix && (!isOp b ix || !fieldsOk b g w ix))
  else slotBits b ix != 0 || (ix != 3 && portsOf b ix != 0)

/-- Do two slots of the bundle conflict: one tile register written by both, or the widths of V0 and V1 above 1,024 bits? -/
def slotsClash (b : Bundle) (i j : Nat) : Bool :=
  i != j && present b i && present b j &&
  (((slotWrites b i).any fun x => (slotWrites b j).any fun y => x.1 == y.1 && x.2 &&& y.2 != 0) ||
   (decide (i + j = 3) && decide (1 ≤ i) && decide (1 ≤ j) && !isExt b i && !isExt b j &&
      decide (b.v0.width.toNat < 3) && decide (b.v1.width.toNat < 3) &&
      decide (4 < 2 ^ b.v0.width.toNat + 2 ^ b.v1.width.toNat)))

/-- The offending-slot mask of a bundle (R63): the union over every condition that holds. -/
def offending (b : Bundle) (g : Group) (w : Nat) : Nat :=
  slotIxs.foldl (fun m ix =>
    if slotBad b g w ix || (slotIxs.any fun j => slotsClash b ix j) then m + slotBit ix else m) 0

/-- Is the bundle illegal? -/
def illegalBundle (b : Bundle) (g : Group) (w : Nat) : Bool :=
  decide (2 ≤ b.ver.toNat) || b.hz != 0 || !((ports b).all portOk) || offending b g w != 0

end Sys2Proof.Machine
end

