-- ==== Sys2Proof/Machine/Owner.lean ====
section
/-! DEFINITION. Registers VI: tile ownership, branches, EXIT and mask instructions, TRAP, BKPT, TRET, CSRs, and the
extension opcodes (R33 to R38, R83, R84, R232 to R249). -/

namespace Sys2Proof.Machine

/-! ### Owner words and pending flags (R33, R34, R125) -/

/-- The owner of a tile. -/
def Group.ownerOf (g : Group) (t : Nat) : Owner := (aget g.owner t).getD .free

/-- A group with a tile's owner replaced. -/
def Group.setOwner (g : Group) (t : Nat) (o : Owner) : Group := { g with owner := aset g.owner t o }

/-- The tiles an access in flight will write. -/
def AccKind.tiles : AccKind → List Nat
  | .load _ _ _ _ d => [d / 8]
  | .atom _ _ _ _ (some d) => [d / 8]
  | .cas _ _ d _ => [d / 8]
  | .lookup v => v.map (·.tile)
  | .rcpq _ d => [d / 8]
  | .tile t _ _ => [t]
  | _ => []

/-- Is a write to the tile in flight (R34)? -/
def tilePending (g : Group) (t : Nat) : Bool :=
  (g.strands.any fun st => (st.flights.any fun f => f.v.any fun w => w.tile == t) ||
    st.acc.any fun e => e.kind.tiles.contains t) ||
  (g.cap.any fun k => (k.res.any fun r => r.tile == some t) ||
    k.eng.any fun e => e.dtiles.contains t) ||
  g.snaps.any fun x => x.tile == some t || x.op.any fun e => e.dtiles.contains t

/-- Does the tile hold a write entry on the busy scoreboard (R222)? -/
def writeEntry (g : Group) (t : Nat) : Bool :=
  (g.cap.any fun k => k.eng.any fun e => e.dtiles.contains t) ||
  g.snaps.any fun x => x.op.any fun e => e.dtiles.contains t

/-- Does the tile hold a read entry? -/
def readEntry (g : Group) (t : Nat) : Bool := g.cap.any fun k => k.eng.any fun e => !e.rdReleased && e.rtiles.contains t

/-- The owner word of a tile (R125). -/
def ownerWord (g : Group) (t : Nat) : Nat :=
  b2n (tilePending g t) * 2 ^ 15 + match g.ownerOf t with
    | .free => 0
    | .capstan => 1
    | .strand s k => 2 + s * 2 ^ 3 + k * 2 ^ 8
    | .offeredCapstan .. => 3 + 2 ^ 2
    | .offeredStrand s k _ _ => 3 + s * 2 ^ 3 + k * 2 ^ 8

/-- The tile offered to strand s at slot k, with its offer's clock, giver bound and whether it may be taken (R36). -/
def offerTo (g : Group) (s k : Nat) : Option (Nat × Nat × Nat) :=
  g.owner.findSome? fun e => match e.2 with
    | .offeredStrand a b since upto => if a = s ∧ b = k then some (e.1, since, upto) else none
    | _ => none

/-- May an offer made in a clock be taken in this one (R36)? -/
def takeable (s : State) (g : Group) (t since : Nat) : Bool :=
  decide (since < s.clock) && !tilePending g t && !writeEntry g t && !readEntry g t

/-- The extra word of TILE_NOT_OWNED (R237). -/
def ownerExtra (reason tile : Nat) : Word := BitVec.ofNat 32 (reason + tile * 16)

/-- A strand's tile map with a slot mapped to a tile, or unmapped. -/
def Strand.setSlot (st : Strand) (k : Nat) (t : Option Nat) : Strand :=
  { st with q := st.q.setIfInBounds k (match t with
      | some n => BitVec.ofNat 16 (0x8000 + n)
      | none => 0) }

/-- A strand's TAKE completes: the tile is mapped, the strand goes on from the next clock, and nothing after it is sent before
the giver's accesses (R36, R234, R313). -/
def View.endTake (v : View) (k t upto : Nat) (len : Nat) : State :=
  let w := { v with g := v.g.setOwner t (.strand v.j k), st := { v.st.setSlot k (some t) with wait := none, readyAt := v.s.clock + 1 } }
  ((w.enqueue (.handoff (.capstan v.g.gid) upto) true true [] none).advance len).put

/-- GIVE (R233). -/
def execGive (h : Hd) (q : QR) : State → Host.Outcome State Fault Refusal :=
  onceExec h { port := .ctl, len := 8, noRegion := true } fun v =>
    let w := (v.st.q[q.val]?).getD 0
    let t := w.toNat % 512
    if !v.g.capBound then v.trapAt 0x04 8 (v.st.acting h) (ownerExtra 2 t) 0
    else if !w.getLsbD 15 then v.trapAt 0x04 8 (v.st.acting h) (ownerExtra 1 0) 0
    else
      let g := v.g.setOwner t (.offeredCapstan v.s.clock v.j v.s.nextSeq)
      (({ v with g, st := v.st.setSlot q.val none } : View).advance 8).put

/-- TAKE (R234). -/
def execTake (h : Hd) (q : QR) : State → Host.Outcome State Fault Refusal :=
  onceExec h { port := .ctl, len := 8, noRegion := true } fun v =>
    let w := (v.st.q[q.val]?).getD 0
    let t := w.toNat % 512
    if !v.g.capBound then v.trapAt 0x04 8 (v.st.acting h) (ownerExtra 2 t) 0
    else if w.getLsbD 15 then v.trapAt 0x04 8 (v.st.acting h) (ownerExtra 3 t) 0
    else match offerTo v.g v.j q.val with
      | some (t, since, upto) => if takeable v.s v.g t since then v.endTake q.val t upto 8
                                 else (v.block (.take q.val) 8).put
      | none => (v.block (.take q.val) 8).put

/-- TQRY (R235). -/
def execTqry (h : Hd) (slot : Bool) (d : VR) (b : BSrc) : State → Host.Outcome State Fault Refusal :=
  strandExec h (needV .ctl .b32 [(0, d.val)] [] b []) fun v =>
    v.putWords h 2 b.len d.val fun i =>
      let x := (v.srcB .b32 b i).code
      if slot then
        let k := x % 32
        let w := (v.st.q[k]?).getD 0
        if w.getLsbD 15 then ownerWord v.g (w.toNat % 512)
        else match offerTo v.g v.j k with
          | some (t, _, _) => ownerWord v.g t
          | none => 0
      else ownerWord v.g (x % 512)

/-! ### Branches (R239 to R241) -/

/-- Which way a branch goes: some true taken, some false not, none diverges (R240). -/
def Strand.direction (st : Strand) (h : Hd) : Option Bool :=
  if h.p = 7 then some (!h.neg)
  else if st.acting h = st.em ∧ st.em ≠ 0 then some true
  else if st.acting h = 0 then some false
  else none

/-- A taken branch: a misaligned target traps at the branch; the next instruction issues 3 clocks on (R241). -/
def View.jump (v : View) (target : DWord) : State :=
  if target.toNat % 8 ≠ 0 then v.trapAt 0x06 8 v.st.em 0 target.toNat
  else ({ v with st := { v.st with pc := target, readyAt := v.s.clock + 3 } } : View).put

/-- A branch with its effect when taken. -/
def branchExec (h : Hd) (n : Need) (taken : View → State) : State → Host.Outcome State Fault Refusal :=
  strandExec h n fun v => match v.st.direction h with
    | some true => taken v
    | some false => (v.advance 8).put
    | none => v.trapAt 0x05 8 (v.st.acting h) 0 0

/-- A target by an offset in 8-byte words. -/
def View.target (v : View) {n : Nat} (off : BitVec n) : DWord := v.st.pc + off.signExtend 64 * 8

/-- BRA. -/
def execBra (h : Hd) (off : Word) : State → Host.Outcome State Fault Refusal :=
  branchExec h { port := .ctl, len := 8 } fun v => v.jump (v.target off)

/-- BREZ: taken when the guard is true in no lane of EM. -/
def execBrez (h : Hd) (off : Word) : State → Host.Outcome State Fault Refusal :=
  strandExec h { port := .ctl, len := 8 } fun v =>
    if v.st.acting h = 0 then v.jump (v.target off) else (v.advance 8).put

/-- BRX. -/
def execBrx (h : Hd) (n : SR) : State → Host.Outcome State Fault Refusal :=
  branchExec h { port := .ctl, len := 8, sregs := [n.val, n.val + 1] } fun v => v.jump (readSS v.g n.val)

/-- CALL: the link is written in every live lane. It lands 2 clocks after issue, as the other CTL results do: DESIGN CHOICE, no
table gives its latency (log 112). -/
def execCall (h : Hd) (d : VR) (off : BitVec 24) : State → Host.Outcome State Fault Refusal :=
  branchExec h { port := .ctl, len := 8, named := vNames .f64 0 d } fun v =>
    let link := (v.st.pc + 8).toNat
    if (v.target off).toNat % 8 ≠ 0 then v.jump (v.target off)
    else (v.fly 2 (v.resultWrites .f64 d.val v.st.live fun _ => (link, 0xFF)) []).jump (v.target off)

/-- RET: the lanes of EM must agree; with EM empty the lowest live lane decides. -/
def execRet (h : Hd) (a : VR) : State → Host.Outcome State Fault Refusal :=
  branchExec h { port := .ctl, len := 8, named := vNames .f64 1 a } fun v =>
    let at_ := fun i => (v.srcV .f64 a.val i).code
    let e := if v.st.em = 0 then v.st.live else v.st.em
    match lowLane e with
    | none => (v.advance 8).put
    | some i0 =>
      let bad := maskOf fun i => v.st.em.getLsbD i && at_ i != at_ i0
      if bad ≠ 0 then v.trapAt 0x05 8 bad 0 0 else v.jump (BitVec.ofNat 64 (at_ i0))

/-! ### EXIT and the mask instructions (R242, R243) -/

/-- EXIT. -/
def execExit (h : Hd) : State → Host.Outcome State Fault Refusal :=
  strandExec h { port := .ctl, len := 8 } fun v =>
    let live := v.st.live &&& ~~~(v.st.acting h)
    let st := { v.st with live, em := v.st.em &&& live }
    if live = 0 then ({ v with st := { st with pdone := true, active := false } } : View).put
    else (({ v with st } : View).advance 8).put

/-- EMPUSH. -/
def execEmpush (h : Hd) (sd : SR) (pn : PR) (neg : Bool) : State → Host.Outcome State Fault Refusal :=
  onceExec h { port := .ctl, len := 8, sregs := [sd.val], preds := [pn] } fun v =>
    let m := if neg then ~~~(v.st.pred pn) else v.st.pred pn
    (((v.fly 2 [] [(sd.val, v.st.em)]).putEm (v.st.em &&& m)).advance 8).put

/-- EMFLIP. -/
def execEmflip (h : Hd) (sd : SR) : State → Host.Outcome State Fault Refusal :=
  onceExec h { port := .ctl, len := 8, sregs := [sd.val] } fun v =>
    ((v.putEm (readS v.g sd.val &&& ~~~v.st.em)).advance 8).put

/-- EMPOP. -/
def execEmpop (h : Hd) (sd : SR) : State → Host.Outcome State Fault Refusal :=
  onceExec h { port := .ctl, len := 8, sregs := [sd.val] } fun v =>
    ((v.putEm (readS v.g sd.val)).advance 8).put

/-! ### TRAP, BKPT and TRET (R244, R245) -/

/-- TRAP. -/
def execTrap (h : Hd) (code : BSrc) : State → Host.Outcome State Fault Refusal :=
  onceExec h { port := .ctl, len := code.len } fun v => v.trapAfter 0x14 code.len (v.st.acting h) (v.wordB code)

/-- BKPT: a halt asked for, when the debug controller has breakpoints enabled for the context; else a trap. The halted strand
stands after the BKPT: DESIGN CHOICE, the spec gives no PC (log 113). -/
def execBkpt (h : Hd) (code : BSrc) : State → Host.Outcome State Fault Refusal :=
  onceExec h { port := .ctl, len := code.len } fun v =>
    if v.c.breakpoints then
      (({ v with g := { v.g with stopReq := some { future := .none, since := v.s.clock, halt := true } }
                 st := { v.st with handler := v.st.handler.map fun x => { x with bkpt := true } } } : View).advance code.len).put
    else v.trapAfter 0x15 code.len (v.st.acting h) (v.wordB code)

/-- What stops the read of n bytes of the context's trap block at an offset: cause, extra word and address (R251, R271). -/
def blockStop (s : State) (c : Ctx) (off n : Nat) : Option (Nat × Word × Nat) :=
  (List.range (n / 8)).findSome? fun k => match checkSys s c .load (c.trapvec + off + 8 * k) 1 with
    | .ok pa _ => if isPoisoned s pa then some (0x0A, poisonExtra s.fresh pa, c.trapvec + off + 8 * k) else none
    | .fail _ cause extra a => some (cause, extra, a)
    | .miss _ => none

/-- What stops a TRET as it reads its record, and, for a Capstan trap, CREG (R438, R444). -/
def View.tretStop (v : View) : Option (Nat × Word × Nat) :=
  let own := blockStop v.s v.c (0x100 + 64 * v.j) 64
  own.or (if bits (sysNat v.s v.c (v.c.trapvec + 0x100 + 64 * v.j) 8) 9 8 = 0 then none
          else (blockStop v.s v.c 0x900 64).or (blockStop v.s v.c 0x1000 0xAF0))

/-- A TRET: illegal outside a handler, after the checks of R124; it issues once the handler's accesses have been sent
(R444). -/
def tretExec (h : Hd) (named : List (Nat × Nat)) (body : View → State) : State → Host.Outcome State Fault Refusal :=
  strandExec h { port := .ctl, len := 8, named, sent := true } fun v =>
    if v.st.handler.isNone then v.illegal h 8
    else if !v.st.actsOnce h then (v.advance 8).put
    else match v.tretStop with
      | some (cause, extra, a) => v.trapAt cause 8 (v.st.acting h) extra a
      | none => body v

/-- TRET. -/
def execTret (h : Hd) : State → Host.Outcome State Fault Refusal := tretExec h [] fun v => trapReturn v false []

/-- TRET.skip. -/
def execTretSkip (h : Hd) : State → Host.Outcome State Fault Refusal := tretExec h [] fun v => trapReturn v true []

/-- The V destination of an instruction that EMULATE may stand for: its first register, whether it is a pair, and the format
and written elements of a checked result (R86, R163). Extension opcodes have none (log 17). -/
def emuDest (i : Instr) : Option (Nat × Bool × Option (Fmt × Nat)) :=
  match i with
  | .fadd _ .f64 _ _ d _ _ | .fmul _ .f64 _ _ d _ _ | .ffma _ .f64 _ _ d _ _ _ | .fmin _ .f64 _ d _ _
  | .fmax _ .f64 _ d _ _ | .fdiv _ .f64 _ _ d _ _ | .frcp _ .f64 _ _ d _ | .fsqrt _ .f64 _ _ d _
  | .cvt _ .f64 _ _ _ d _ _ => some (d.val, true, some (.f64, 1))
  | .cvt _ dst .f64 _ _ d _ part =>
      some (d.val, false, if dst.isFloat then some (dst, pairMask (cvtPairs dst .f64 part.val)) else none)
  | .mov _ .f64 d _ | .sel _ .f64 d _ _ _ _ | .sigset _ .f64 d _ _ => some (d.val, true, none)
  | .fclass _ .f64 d _ | .sigget _ .f64 d _ _ => some (d.val, false, none)
  | _ => none

/-- Word n of a strand's trap record. -/
def View.recordWord (v : View) (n : Nat) : Nat := sysNat v.s v.c (v.c.trapvec + 0x100 + 64 * v.j + 8 * n) 8

/-- The V destination of the instruction that a strand's trap record names (R245). -/
def View.emuTarget (v : View) : Option (Nat × Bool × Option (Fmt × Nat)) :=
  match decodeWords (BitVec.ofNat 64 (v.recordWord 6)) (BitVec.ofNat 64 (v.recordWord 7)) with
  | .ok i => if bits (v.recordWord 0) 9 8 = 0 then emuDest i else none
  | .error _ => none

/-- Is the destination of the record's instruction still to be written by a result or a load in flight? TRET.emu, which writes it,
is interlocked (R137). -/
def View.emuBusy (v : View) (h : Hd) : Bool :=
  v.st.handler.isSome && v.st.actsOnce h && v.emuTarget.any fun x =>
    (if x.2.1 then [x.1, x.1 + 1] else [x.1]).any fun d => v.st.mapped d && v.st.busyV.contains (v.st.tileOf d, d % 8)

/-- TRET.emu: Vs goes to the emulated instruction's V destination in the record's lanes, and is checked as its result would have
been, with EN as it stands at the TRET (R165, R245, R249): DESIGN CHOICE (log 140), unsafe, since R249 has the EN of the issue and R165
the check at the TRET. The words land two clocks after the TRET issues: DESIGN CHOICE (log 141), unsafe, since no latency is given. A
destination in a slot that is no longer mapped raises TILE_NOT_OWNED, reason 7, at the TRET: DESIGN CHOICE (log 127), unsafe, since the
spec does not say. -/
def emuReturn (h : Hd) (a : VR) : State → Host.Outcome State Fault Refusal :=
  tretExec h (if evenV a then vNames .f64 1 a else [(1, a.val)]) fun v =>
    let w := v.recordWord
    let iw0 := BitVec.ofNat 64 (w 6)
    let iw1 := BitVec.ofNat 64 (w 7)
    match v.emuTarget with
    | none => trapReturn v true []
    | some (d, pair, checked) =>
      if pair && !evenV a then v.illegal h 8
      else if !v.st.mapped d then v.trapAt 0x04 8 (v.st.acting h) (BitVec.ofNat 32 (7 + d * 16)) 0
      else
        let lanes := BitVec.ofNat 32 (w 3)
        let ws := v.vwrites d lanes (fun i => readV v.g v.st a.val i) ++
          (if pair then v.vwrites (d + 1) lanes (fun i => readV v.g v.st (a.val + 1) i) else [])
        let chk : Option SigCheck := if v.g.sigctl.getLsbD 0 then checked.map fun x =>
            { pc := BitVec.ofNat 64 (w 1), iw0, iw1, fmt := x.1, regs := [(v.st.tileOf d, d % 8)], elems := x.2, lanes }
          else none
        let fl : Flight := { seq := v.s.nextSeq, issuedAt := v.s.clock, landAt := v.s.clock + 2, v := ws, chk }
        trapReturn { v with s := { v.s with nextSeq := v.s.nextSeq + 1 }, st := { v.st with flights := v.st.flights ++ [fl] } } true []

/-- TRET.emu, once nothing in flight still writes its destination. -/
def execTretEmu (h : Hd) (a : VR) (s : State) : Host.Outcome State Fault Refusal :=
  if (curView s).any fun v => v.emuBusy h then .next s else emuReturn h a s

/-! ### CSRs (R246 to R249) -/

/-- FEAT0 (R248). -/
def feat0 : Variant → Nat
  | .y2s => 96 * 2 ^ 8
  | _ => 7 + 128 * 2 ^ 8

/-- The low 32 bits, or the high ones, of a 64-bit CSR. -/
def half (hi : Bool) (x : Nat) : Nat := if hi then x / 2 ^ 32 % 2 ^ 32 else x % 2 ^ 32

/-- A CSR as a strand reads it. -/
def csrValue (s : State) (c : Ctx) (g : Group) (st : Strand) (n : Nat) : Nat :=
  match n with
  | 0x00 => feat0 s.variant
  | 0x01 => 0x12
  | 0x04 => 0x466
  | 0x10 => c.ctxid.toNat
  | 0x11 => c.tenant
  | 0x12 => c.tslice.toNat
  | 0x13 => c.pregrace.toNat
  | 0x14 => half false c.trapvec
  | 0x15 => half true c.trapvec
  | 0x16 => half false c.tagbase
  | 0x17 => half true c.tagbase
  | 0x20 => st.sigth.toNat
  | 0x21 => g.sigctl.toNat
  | 0x22 => g.srseed.toNat
  | 0x30 => half false c.step.toNat
  | 0x31 => half true c.step.toNat
  | 0x32 => half false g.vcyc
  | 0x33 => half true g.vcyc
  | 0x34 => g.qsat
  | 0x35 => g.qund
  | 0x36 => (getCore s g.core).pwfrz.toNat
  | 0x37 => (getCore s g.core).pwlim.toNat
  | 0x40 => c.rcpdepth
  | 0x41 => c.rcpcores.toNat
  | 0x42 => c.tktimeout.toNat
  | 0x43 => c.gangage.toNat
  | 0x44 => c.joinspin.toNat
  | _ => 0

/-- CSRR. Its result lands 2 clocks after issue: DESIGN CHOICE (log 147), unsafe for that clock, since neither R246 nor the table of
R137 gives one. -/
def execCsrr (h : Hd) (d : VR) (csr : BitVec 12) : State → Host.Outcome State Fault Refusal :=
  strandExec h { port := .ctl, len := 8, named := [(0, d.val)] } fun v =>
    v.putWords h 2 8 d.val fun _ => csrValue v.s v.c v.g v.st csr.toNat

/-- A group with SRSEED written and every generator seeded (R100). -/
def Group.reseed (g : Group) (w : Word) : Group :=
  { g with srseed := w, strands := g.strands.mapIdx fun j st => { st with gen := seedUnit w j },
           cap := g.cap.map fun k => { k with gen := seedUnit w 32 } }

/-- CSRW: a value outside the CSR's limits is illegal. SIGCTL changes from the next clock (R249). -/
def execCsrw (h : Hd) (csr : BitVec 12) (b : BSrc) : State → Host.Outcome State Fault Refusal :=
  onceExec h { port := .ctl, len := b.len, sregs := b.ss .b32, noRegion := true } fun v =>
    let w := v.wordB b
    let n := csr.toNat
    if n = 0x20 then
      if 53 < w.toNat then v.illegal h b.len
      else (({ v with st := { v.st with sigth := w } } : View).advance b.len).put
    else if n = 0x21 then
      if 1 < w.toNat then v.illegal h b.len
      else (({ v with g := { v.g with sigNext := some w } } : View).advance b.len).put
    else if n = 0x22 then
      (({ v with g := v.g.reseed w, st := { v.st with gen := seedUnit w v.j } } : View).advance b.len).put
    else if w.toNat = 0 ∨ 8 < w.toNat then v.illegal h b.len
    else (({ v with c := { v.c with rcpdepth := w.toNat } } : View).advance b.len).put

/-! ### Extension opcodes (R83, R84) -/

/-- An extension opcode raises EMULATE: on the Y2 every FEAT2 bit is clear. -/
def execExtensionOpcode (w0 w1 : BitVec 64) : State → Host.Outcome State Fault Refusal :=
  let x := fieldsOf w0 w1
  strandExec x.hd { port := .ctl, len := wordBytes w0 } fun v => v.trapAfter 0x03 (wordBytes w0) (v.st.acting x.hd) 0

end Sys2Proof.Machine
end

