-- ==== Sys2Proof/Machine/Capstan.lean ====
section
/-! DEFINITION. Registers IV and V: how a bundle issues, and what each slot does when it commits (R58 to R71, R187 to R207,
R208 to R229, R236, R237, R292 to R299, R359, R415, R418, R424, R427). -/

namespace Sys2Proof.Machine

/-! ### A Capstan's view -/

/-- The state as a Capstan sees it: its context, group and own record beside the rest. -/
structure CapView where
  s : State
  c : Ctx
  g : Group
  k : Capstan

/-- The state with the view's context, group and Capstan in place. -/
def CapView.put (v : CapView) : State := putGroup (putCtx v.s v.c) (v.g.putCap v.k)

/-- The view of the Capstan of a group. -/
def capViewOf (s : State) (gid : Nat) : Option CapView :=
  (getGroup s gid).bind fun g => (getCtx s g.ctx).bind fun c => g.cap.map fun k => { s, c, g, k }

/-- The view of the current Capstan, if its group is resident. -/
def curCap (s : State) : Option CapView :=
  match s.cur with
  | some { agent := .capstan gid, .. } =>
      (capViewOf s gid).bind fun v => if v.g.state = .resident then some v else none
  | _ => none

/-- The agent of a view. -/
def CapView.agent (v : CapView) : Agent := .capstan v.g.gid

/-! ### CPC (R189, R191, R195) -/

/-- SLC: the bundle comes from the slice store. -/
def slc (pc : DWord) : Bool := pc.getLsbD 63

/-- The slice-store index of a CPC. -/
def sliceIx (pc : DWord) : Nat := bits pc.toNat 14 6

/-- The CPC of a slice-store entry. -/
def slicePc (ix : Nat) : DWord := BitVec.ofNat 64 (2 ^ 63 + ix % 512 * 64)

/-- The CPC that lies n bundles from another (log 40). -/
def bundleFrom (pc : DWord) (n : Int) : DWord :=
  if slc pc then slicePc (((sliceIx pc : Int) + n) % 512).toNat
  else BitVec.ofNat 64 (((pc.toNat : Int) + n * 64) % (2 ^ 63 : Nat)).toNat

/-- The bundle after another. -/
def nextBundle (pc : DWord) : DWord := bundleFrom pc 1

/-- The PC that an origin payload folds (R104). -/
def originPc (pc : DWord) : DWord := if slc pc then BitVec.ofNat 64 (2 ^ 47 + sliceIx pc * 64) else pc

/-! ### Exposed results in flight (R66, R70, R71, R448) -/

/-- A register and lane in a list of masks. -/
def maskHas (l : List (Nat × Word)) (reg lane : Nat) : Bool := l.any fun e => tbit e.1 reg && e.2.getLsbD lane

/-- Two results are bound for one register of a tile, or for one Z or X register (R205). -/
def Exposed.shares (x y : Exposed) : Bool :=
  (x.tile.isSome && x.tile == y.tile && x.regs &&& y.regs != 0) ||
  (match x.z, y.z with
   | some a, some b => a.1 == b.1
   | _, _ => false) ||
  (match x.x, y.x with
   | some a, some b => a.1 == b.1
   | _, _ => false)

/-- Two results have a word, or a Z or X register, in common. -/
def Exposed.meets (x y : Exposed) : Bool := x.shares y && (x.tile.isNone || x.lanes &&& y.lanes != 0)

/-- A read of a word of a tile that the result makes undefined. `free` says that it may land at any cycle up to its bound: the
old value is read until a fixed result lands, or an entry of the snapshot buffer (R66, R70, R71, R448). -/
def Exposed.hides (x : Exposed) (free : Bool) (tile reg lane : Nat) : Bool :=
  x.tile == some tile && tbit x.regs reg && x.lanes.getLsbD lane &&
  ((free && !x.fixed) || maskHas x.dead reg lane || maskHas x.mixed reg lane)

/-- The same of a Z or X register for which the result is bound. -/
def Exposed.blurs (x : Exposed) (free : Bool) : Bool := (free && !x.fixed) || !x.mixed.isEmpty || !x.dead.isEmpty

/-- The results in flight: the Capstan's, and the snapshot buffer's. -/
def CapView.flying (v : CapView) : List Exposed := v.k.res ++ v.g.snaps

/-- A word of a tile and its tag as a slot reads them. -/
def CapView.word (v : CapView) (tile reg lane : Nat) : Word × Byte :=
  if (v.k.res.any fun x => x.hides true tile reg lane) || v.g.snaps.any fun x => x.hides false tile reg lane then
    (Config.freeWord (v.s.free + regKey tile reg lane), Config.freeTag (v.s.free + regKey tile reg lane))
  else tileWord v.g tile reg lane

/-- A Z register as a slot reads it. -/
def CapView.readZ (v : CapView) (n : Nat) : BitVec 512 :=
  let here := fun (x : Exposed) => x.z.any fun e => e.1 == n
  if (v.k.res.any fun x => here x && x.blurs true) || v.g.snaps.any fun x => here x && x.blurs false then
    Config.freeWide (v.s.free + n)
  else (v.k.z[n]?).getD 0

/-- An X register as a slot reads it. -/
def CapView.readX (v : CapView) (n : Nat) : BitVec 128 :=
  let here := fun (x : Exposed) => x.x.any fun e => e.1 == n
  if (v.k.res.any fun x => here x && x.blurs true) || v.g.snaps.any fun x => here x && x.blurs false then
    Config.freeX (v.s.free + n)
  else (v.k.x[n]?).getD 0

/-- An A register; A0 reads zero. -/
def Capstan.readA (k : Capstan) (n : Nat) : DWord := if n = 0 then 0 else (k.a[n]?).getD 0

/-- A write of an A register; A0 discards it. -/
def Capstan.writeA (k : Capstan) (n : Nat) (w : DWord) : Capstan := if n = 0 then k else { k with a := k.a.setIfInBounds n w }

/-- An earlier native result lands no later than the bound of a later one to the same register (R205). -/
def Exposed.sooner (y o : Exposed) : Exposed :=
  if !y.fixed && !o.fixed && y.shares o then { o with bound := min o.bound y.bound } else o

/-- A result of a bundle is put in flight; `lb` is its land-by value, `cycles` its fixed latency in a VER = 0 bundle. -/
def CapView.expose (v : CapView) (p : PartialBundle) (lb cycles minAt : Nat) (x : Exposed) : CapView :=
  let fixed := p.b.ver == 0
  let y := { x with seq := v.s.nextSeq, fixed, issued := p.issued, minAt
                    bound := p.issued + (if fixed then cycles else lb + 1) }
  let clash := fun (o : Exposed) => y.meets o && o.fixed != fixed
  let mark := fun (o : Exposed) => y.sooner (if clash o then { o with mixed := (y.regs, y.lanes) :: o.mixed } else o)
  let z := { y with mixed := (v.flying.filter clash).map fun o => (o.regs, o.lanes) }
  { v with s := { v.s with nextSeq := v.s.nextSeq + 1 }, g := { v.g with snaps := v.g.snaps.map mark }
           k := { v.k with res := v.k.res.map mark ++ [z] } }

/-- Results in flight that a snapshot buffer would have to hold (R448). -/
def CapView.inFlight (v : CapView) : Nat :=
  v.flying.foldl (fun n x => n + match x.op with
    | some e => e.dtiles.length
    | none => 1) 0 + v.k.eng.foldl (fun n e => n + e.dtiles.length) 0

/-! ### What a slot's commit does -/

/-- A slot commits, and the commit goes on; or it stops at the slot. -/
inductive SlotOut
  | ok (s : State)
  | stop (s : State)
  deriving DecidableEq, Repr

/-- The bundle stands before slot ix: it is frozen there. -/
def CapView.holdAt (v : CapView) (p : PartialBundle) (ix : Nat) : CapView :=
  { v with k := { v.k with part := some { p with idx := ix } } }

/-- The bundle that follows a bundle that is committing (R438). -/
def PartialBundle.next (p : PartialBundle) : DWord := p.npc.getD (nextBundle p.cpc)

/-- A fault at a slot: commit stops before it (R64). A recompute group's chain aborts instead (R405). -/
def CapView.slotFault (v : CapView) (p : PartialBundle) (ix cause : Nat) (extra : Word) (addr : Nat) : SlotOut :=
  match v.g.build with
  | some key => .stop (abortFor v.put key cause extra)
  | none =>
    let emu := cause = 0x03
    let t : CTrap := { cause, sresume := ix, smask := slotBit ix, bpc := p.cpc, crpc := p.cpc, npc := p.next, extra
                       addr := BitVec.ofNat 64 addr, slotw := if emu then BitVec.ofNat 64 (slotBits p.b ix) else 0
                       hdr := if emu then BitVec.ofNat 64 (bits (encodeBundle p.b).toNat 511 464) else 0, seq := v.s.nextSeq }
    let w := v.holdAt p ix
    .stop { w with k := { w.k with traps := w.k.traps ++ [t], walked := [], chainFault := none } }.put

/-- A slot that cannot commit yet: the core is frozen. -/
def CapView.hold (v : CapView) (p : PartialBundle) (ix : Nat) : SlotOut := .stop (v.holdAt p ix).put

/-- A recompute group's slot that R405 forbids. -/
def CapView.violate (v : CapView) (reason : Nat) : SlotOut :=
  match v.g.build with
  | some key => .stop (abortBuild v.put key 0x12 reason 0)
  | none => .ok v.put

/-- The Capstan waits at a slot for a page or a tile. -/
def CapView.park (v : CapView) (p : PartialBundle) (ix : Nat) (k : WaitKind) : CapView :=
  let w := v.holdAt p ix
  { w with k := { w.k with pageWait := some k, waitSince := v.s.clock, walked := [], chainFault := none } }

/-- What the judged accesses of a slot do (R295, R297, R228). -/
def CapView.conclude (v : CapView) (p : PartialBundle) (ix : Nat) (out : AccessOut) (f : CapView → List Part → SlotOut) :
    SlotOut :=
  match out with
  | .parts ps => f { v with k := { v.k with walked := [], chainFault := none } } ps
  | .trap cause _ extra addr => v.slotFault p ix cause extra addr
  | .walk pages => .stop (postWalks (v.holdAt p ix).put v.g.core v.c.id v.agent pages)
  | .page va => .stop (v.park p ix (.page va)).put
  | .mapWord h n => .stop (v.park p ix (.mapWord h n)).put
  | .tile va => .stop (meetTile (v.park p ix (.tile va)).put v.c v.g.build va)
  | .hold => v.hold p ix
  | .record va => .stop (v.park p ix (.record va)).put
  | .recipe => v.violate 2

/-- The first of a list of tiles that the Capstan does not own. -/
def CapView.notOwned (v : CapView) (l : List Nat) : Option Nat := l.find? fun t => v.g.ownerOf t != .capstan

/-- The first of a list of tiles with a word that holds an uncorrectable error in masks of registers and lanes (R270). -/
def CapView.badTile (v : CapView) (l : List (Nat × Nat)) (lanes : Word) : Option Nat :=
  (l.find? fun e => (List.range 8).any fun r => tbit e.2 r &&
    lanes32.any fun i => lanes.getLsbD i && v.g.badWords.contains (regKey e.1 r i)).map (·.1)

/-- The tiles a slot names must be the Capstan's, and what it reads free of errors. -/
def CapView.withTiles (v : CapView) (p : PartialBundle) (ix : Nat) (own : List Nat) (reads : List (Nat × Nat)) (lanes : Word)
    (f : SlotOut) : SlotOut :=
  match v.notOwned own with
  | some t => v.slotFault p ix 0x04 (ownerExtra 8 t) 0
  | none => match v.badTile reads lanes with
    | some t => v.slotFault p ix 0x0A (tileErr v.g.core t) 0
    | none => f

/-- An entry added to the Capstan's queues, raising its path counter (R304). A load is sent as it issues. -/
def CapView.enqueue (v : CapView) (bpc : DWord) (kind : AccKind) (isLd isSt : Bool) (parts : List Part)
    (path : Option Nat) : CapView :=
  let e : Entry := { seq := v.s.nextSeq, kind, isLd, isSt, parts, path, bpc }
  let e := { e with sent := isLd && !isSt && e.sendable v.k.acc }
  { v with s := { v.s with nextSeq := v.s.nextSeq + 1 }, k := { v.k with acc := v.k.acc ++ [e] }
           g := match path with
             | some q => v.g.pathRaise q e.seq
             | none => v.g }

/-- May a path counter rise? -/
def CapView.pathRoom (v : CapView) (q : Nat) : Bool := decide (v.g.pathCount q < 4095)

/-! ### The S slot (R193 to R195) -/

/-- CSTAT (R192). -/
def Capstan.cstat (k : Capstan) (pc : DWord) : Nat :=
  b2n k.halted + b2n (slc pc) * 2 + k.rstk.length % 16 * 4 + k.mth % 32 * 2 ^ 8 + b2n k.mse * 2 ^ 13

/-- A CSR as the Capstan reads it (R194, R246). -/
def CapView.csr (v : CapView) (p : PartialBundle) (n : Nat) : Nat :=
  match n with
  | 0x16 => v.c.tagbase
  | 0x30 => v.c.step.toNat
  | 0x32 => p.issued % 2 ^ 64
  | 0x33 => half true p.issued
  | 0x50 => v.k.cstat p.cpc
  | 0x52 => p.cpc.toNat
  | 0x53 => half true p.cpc.toNat
  | _ => csrValue v.s v.c v.g {} n

/-- The result of an arithmetic code. -/
def sArith (op : Nat) (x y : DWord) : DWord :=
  match op with
  | 0 => x + y
  | 1 => x - y
  | 2 => x * y
  | 3 => x &&& y
  | 4 => x ||| y
  | 5 => x ^^^ y
  | 6 => if y.toNat < 64 then x <<< y.toNat else 0
  | 7 => if y.toNat < 64 then x >>> y.toNat else 0
  | _ => x.sshiftRight (min y.toNat 63)

/-- The comparison of a SETC code. -/
def sCompare (code : Nat) (x y : DWord) : Bool :=
  match code with
  | 0 => x == y
  | 1 => x != y
  | 2 => x.slt y
  | 3 => x.sle y
  | 4 => y.slt x
  | 5 => y.sle x
  | 6 => x.ult y
  | _ => y.ule x

/-- The condition of a BR code. -/
def sCond (code : Nat) (x : DWord) : Bool :=
  match code with
  | 0 => true
  | 1 => x == 0
  | 2 => x != 0
  | 3 => x.slt 0
  | 4 => !x.slt 0
  | 5 => (0 : DWord).slt x
  | _ => x.sle 0

/-- The S slot commits. -/
def CapView.commitS (v : CapView) (p : PartialBundle) : SlotOut :=
  let b := p.b.s
  let op := b.op.toNat
  let x := v.k.readA b.a.toNat
  let imm := b.imm.signExtend 64
  let y := if b.i = 1 then imm else v.k.readA b.b.toNat
  let goto := fun (k : Capstan) (pc : DWord) =>
    SlotOut.ok { v with k := { k with part := some { p with npc := some pc } } }.put
  let stay := fun (k : Capstan) => SlotOut.ok { v with k }.put
  let target := bundleFrom p.cpc b.imm.toInt
  if op ≤ 8 then stay (v.k.writeA b.d.toNat (sArith op x y))
  else if op = 9 then
    stay (v.k.writeA b.d.toNat (if b.sub = 0 then imm else if b.sub = 1 then b.imm.setWidth 64 else b.imm.setWidth 64 <<< 32))
  else if op = 10 then stay (v.k.writeA b.d.toNat (if sCompare b.sub.toNat x y then 1 else 0))
  else if op = 11 then if sCond b.sub.toNat x then goto v.k target else stay v.k
  else if op = 12 then
    let n := b.d.toNat % 4
    let l := (v.k.l[n]?).getD 0
    if b.sub = 1 then stay { v.k with l := v.k.l.setIfInBounds n b.imm }
    else if l = 0 then stay v.k
    else
      let k := { v.k with l := v.k.l.setIfInBounds n (l - 1) }
      if l - 1 ≠ 0 then goto k target else stay k
  else if op = 13 then
    if 8 ≤ v.k.rstk.length then v.slotFault p 0 0x16 0 0
    else goto { v.k with rstk := v.k.rstk ++ [nextBundle p.cpc] } (slicePc b.imm.toNat)
  else if op = 14 then
    match v.k.rstk.getLast? with
    | none => v.slotFault p 0 0x16 0 0
    | some pc => goto { v.k with rstk := v.k.rstk.dropLast } pc
  else if op = 15 then stay { v.k with halted := true, haltPc := p.cpc }
  else if op = 16 then stay (v.k.writeA b.d.toNat (BitVec.ofNat 64 (v.csr p b.imm.toNat)))
  else
    let w := x.toNat % 2 ^ 32
    if b.imm.toNat = 0x22 then
      let g := (v.g.putCap v.k).reseed (BitVec.ofNat 32 w)
      .ok (putGroup (putCtx v.s v.c) g)
    else stay { v.k with mth := bits w 12 8, mse := tbit w 13 }

/-! ### The V slots (R197 to R204) -/

/-- A rounding mode from its code. -/
def modeOf (n : Nat) : RMode :=
  match n with
  | 0 => .rn
  | 1 => .rz
  | 2 => .ru
  | _ => .rd

/-- The word lanes a V slot touches. -/
def vLanes (x : VSlot) : Word :=
  maskOf fun i => decide (8 * x.lg.toNat ≤ i) && decide (i < 8 * (x.lg.toNat + 2 ^ x.width.toNat))

/-- Element k of a tile register in a lane, as an operand. -/
def CapView.opd (v : CapView) (f : Fmt) (tile reg lane k : Nat) : Opd :=
  let r := v.word tile reg lane
  opdOf f (elemAt f r.1.toNat k) r.2 k

/-- A result as the operand of a further step of a reduction. -/
def stepOpd (f : Fmt) (r : Nat × Option Nat) : Opd := opdOf f r.1 (storeCount f 0xFF 0 r.1 r.2) 0

/-- A reduction over the eight lanes of a segment (R201). Of equal values VRMAX chooses the earlier, and its count: DESIGN
CHOICE (log 114), unsafe, since R201 does not say which is chosen. -/
def reduceOpd (op : FOp) (f : Fmt) (mode : RMode) (o : NanSrc) (b : Opd) (l : List Opd) : Nat × Option Nat :=
  match l with
  | [] => (0, some 0)
  | a :: rest => rest.foldl (fun r x => fpElem op f mode false o (stepOpd f r) x x) (fpElem op f mode false o b a a)

/-- Element k of lane i of an arithmetic V slot (R200, R201). A NaN scale of VSCALE enters an F16 or BF16 result as R106 maps
it from F32: DESIGN CHOICE (log 115), unsafe, since it cannot pass unchanged. -/
def CapView.vElem (v : CapView) (x : VSlot) (f : Fmt) (o : NanSrc) (i k : Nat) : Nat × Option Nat :=
  let a := v.opd f x.atile.toNat x.areg.toNat i k
  let b := v.opd f x.btile.toNat x.breg.toNat i k
  let d := v.opd f x.dtile.toNat x.dreg.toNat i k
  let mode := modeOf x.sub.toNat
  let seg := (List.range 8).map fun n => v.opd f x.atile.toNat x.areg.toNat (i / 8 * 8 + n) k
  match x.op.toNat with
  | 0 => fpElem .add f mode false o a b b
  | 1 => fpElem .mul f mode false o a b b
  | 2 => fpElem .fma f mode false o a b d
  | 3 => fpElem .max f .rn false o a b b
  | 4 => fpElem .min f .rn false o a b b
  | 5 => let n := opdOf .f32 ((v.k.readA x.sa.toNat).toNat % 2 ^ 32) 0xFF 0
         fpElem .mul f mode false o a n n
  | 7 => fpElem (.fn .exp2) f mode false o a a a
  | 8 => reduceOpd .max f .rn o b seg
  | _ => reduceOpd .add f mode o b seg

/-- A lane of VCVT (R202). -/
def CapView.vcvt (v : CapView) (x : VSlot) (dst src : Fmt) (o : NanSrc) (i : Nat) : LaneOut :=
  let base := if src.elems ≤ dst.elems then 0 else x.breg.toNat * dst.elems
  convLane dst ((List.range dst.elems).map fun n => (base + n, n))
    (fun n g => convElem src dst .rn true o (v.opd src x.atile.toNat (x.areg.toNat + n / src.elems) i (n % src.elems)) g)
    { code := 0, tag := 0xFF } 1

/-- Lane i of a V slot: word, tag, and additions to QSAT and QUND. -/
def CapView.vLane (v : CapView) (x : VSlot) (pc : DWord) (i : Nat) : LaneOut :=
  let o : NanSrc := ⟨i, 1, pc⟩
  let a := v.word x.atile.toNat x.areg.toNat i
  let b := (v.word x.btile.toNat x.breg.toNat i).1
  let d := v.word x.dtile.toNat x.dreg.toNat i
  let sa := v.k.readA x.sa.toNat
  match x.op.toNat with
  | 6 => match vFmt x.fmt.toNat, vFmt x.sub.toNat with
    | some dst, some src => v.vcvt x dst src o i
    | _, _ => { code := 0, tag := 0xFF, gen := 1 }
  | 10 => { code := if x.sub = 0 then sa.toNat % 2 ^ 32 else sa.toNat / 2 ^ 32, tag := 0xFF, gen := 1 }
  | 11 =>
      if x.sub = 0 then
        { code := ((a.1 &&& b) ||| (d.1 &&& ~~~b)).toNat
          tag := if b = 0xFFFFFFFF then a.2 else if b = 0 then d.2 else 0xFF, gen := 1 }
      else { code := if b ≠ 0 then a.1.toNat else 0, tag := if b ≠ 0 then a.2 else 0xFF, gen := 1 }
  | 12 => { code := 0, tag := 0xFF, gen := 1 }
  | _ => match vFmt x.fmt.toNat with
    | some f => let r := floatWord f (fun k => v.vElem x f o i k)
                { code := r.1, tag := r.2, gen := 1 }
    | none => { code := 0, tag := 0xFF, gen := 1 }

/-- The latency of a V operation (R204). -/
def vLatency (op : Nat) : Nat := if op = 7 then 8 else if op = 8 ∨ op = 9 then 6 else 4

/-- The registers of each tile a V slot reads, as masks, in the order of R237. -/
def vReads (x : VSlot) : List (Nat × Nat) :=
  let op := x.op.toNat
  let many := match vFmt x.fmt.toNat, vFmt x.sub.toNat with
    | some d, some s => if op = 6 then max 1 (d.elems / s.elems) else 1
    | _, _ => 1
  (if op == 2 || op == 11 then [(x.dtile.toNat, 2 ^ x.dreg.toNat)] else []) ++
  (if op == 10 || op == 12 then [] else [(x.atile.toNat, (2 ^ many - 1) * 2 ^ x.areg.toNat)]) ++
  (if op ≤ 4 || op == 8 || op == 9 || op == 11 then [(x.btile.toNat, 2 ^ x.breg.toNat)] else [])

/-- Does a VCVT count in QSAT and QUND (R178, R202)? -/
def vCounts (x : VSlot) : Bool := x.op == 6 && (x.fmt == 3 || x.fmt == 4 || x.fmt == 5)

/-- A V slot commits. -/
def CapView.commitV (v : CapView) (p : PartialBundle) (ix : Nat) : SlotOut :=
  let x := vSlot p.b ix
  v.withTiles p ix (x.dtile.toNat :: (vReads x).map (·.1)) (vReads x) (vLanes x)
    (let outs := (maskLanes (vLanes x)).map fun i => (i, v.vLane x (originPc p.cpc) i)
     let sum := fun (f : LaneOut → Nat) => if vCounts x then outs.foldl (fun n e => n + f e.2) 0 else 0
     let ws := outs.map fun e =>
       ({ tile := x.dtile.toNat, reg := x.dreg.toNat, lane := e.1, word := BitVec.ofNat 32 e.2.code, tag := e.2.tag } : VWrite)
     .ok (v.expose p x.lb.toNat 2 (v.s.clock + vLatency x.op.toNat)
       { seq := 0, fixed := false, issued := 0, bound := 0, minAt := 0, ready := true, tile := some x.dtile.toNat
         regs := 2 ^ x.dreg.toNat, lanes := vLanes x, v := ws, qsat := sum (·.qsat), qund := sum (·.qund) }).put)

/-! ### The M slot (R212 to R222) -/

/-- Byte n of the 128 scale bytes that start at a Z register. -/
def CapView.scale (v : CapView) (z n : Nat) : Nat := bits (v.readZ (z + n / 64)).toNat (8 * (n % 64) + 7) (8 * (n % 64))

/-- The operands of an M slot, copied at commit (R212). -/
def CapView.matIn (v : CapView) (m : MSlot) (pc : DWord) : MatIn :=
  { f := (matFmt m.fmtA.toNat).getD .f16, word := v.word, scaleA := v.scale m.z.toNat, scaleB := v.scale (m.z.toNat + 2)
    blocks := MSlot.blocks m, desc := if m.x = 7 then {} else tensorDesc (v.readX m.x.toNat), pc }

/-- Is the engine of the core idle: no operation of the Capstan, and none that a stop has left to it (R220, R230)? -/
def CapView.engineIdle (v : CapView) : Bool := v.k.eng.isEmpty && (getCore v.s v.g.core).drain.isEmpty

/-- Operations that wait to start, those left to the engine by a stop among them (R221, R230). -/
def CapView.queuedOps (v : CapView) : Nat :=
  (v.k.eng.filter fun e => !e.started).length + ((getCore v.s v.g.core).drain.length - 1)

/-- The M slot commits: the operation enters the engine's queue, and starts at once where the engine is idle. -/
def CapView.commitM (v : CapView) (p : PartialBundle) : SlotOut :=
  let m := p.b.m
  let t := MSlot.tiles m
  if 2 ≤ v.queuedOps then v.hold p 3
  else v.withTiles p 3 (t.1 ++ t.2) (t.2.map fun n => (n, 255)) 0xFFFFFFFF
    (let cost := MSlot.cost m
     let e : EngineOp :=
       { seq := v.s.nextSeq, bpc := p.cpc, started := v.engineIdle, left := cost.1, occ := cost.1
         relAt := if v.engineIdle then v.s.clock + (if m.op = 1 then 32 else 2) else 0, dtiles := t.1, rtiles := t.2
         v := MSlot.results m (v.matIn m (originPc p.cpc)), check := m.op != 2 && m.fmtA != 10, weight := cost.2 }
     let w : CapView := { v with s := { v.s with nextSeq := v.s.nextSeq + 1 }, k := { v.k with eng := v.k.eng ++ [e] } }
     .ok w.put)

/-! ### Addresses -/

/-- A base and a signed offset in 64-byte units. -/
def Capstan.addr (k : Capstan) (base n off : Nat) : Nat := ((k.readA base).toNat + sext64 n off * 64) % 2 ^ 64

/-- The rows of a tile access: number and address. -/
def rowAddrs (a lay wrap : Nat) : List (Nat × Nat) := (List.range 16).map fun r => (r, (a + r * (64 * 2 ^ (lay / 2))) % wrap)

/-- The tag accesses of a row of a tile (R261, R265). -/
def rowTags (c : Ctx) (use : Use) (r a : Nat) (tag : Nat → Byte) : List Access :=
  (tagAccesses c use r a 16 fun k => [tag (16 * r + k)]).map fun x => { x with word := 16 * r + x.word }

/-! ### The L and K slots (R227, R228, R292 to R295) -/

/-- A load of the Capstan whose result is exposed. -/
def CapView.load (v : CapView) (p : PartialBundle) (lb path : Nat) (kind : Nat → AccKind) (x : Exposed) (ps : List Part) :
    SlotOut :=
  let w := v.expose p lb 4 (v.s.clock + 6) x
  .ok (w.enqueue p.cpc (kind v.s.nextSeq) true false ps (some path)).put

/-- The L slot commits. -/
def CapView.commitL (v : CapView) (p : PartialBundle) : SlotOut :=
  let l := p.b.l
  let a := v.k.addr l.base.toNat 18 l.off.toNat
  let t := l.dtile.toNat
  let lay := l.layout.toNat
  let tags := lay % 2 == 1
  let blank : Exposed := { seq := 0, fixed := false, issued := 0, bound := 0, minAt := 0, ready := false, tile := some t
                           regs := 255 }
  if l.op = 2 then
    if !v.pathRoom 0 then v.hold p 4
    else v.conclude p 4 (judgeGlobal v.s v.c v.g v.k.acc v.k.walked v.k.chainFault
        [{ lane := 0, addr := a, len := 64, align := 64, use := .load }]) fun v ps =>
      let w : CapView := { v with k := { v.k with sld := v.k.sld ++ [{ seq := v.s.nextSeq, entry := t }] } }
      .ok (w.enqueue p.cpc (.sld t v.s.nextSeq) true false ps (some 0)).put
  else if !v.pathRoom (if l.op = 1 then 2 else 0) then v.hold p 4
  else v.withTiles p 4 [t] [] 0
    (if l.op = 1 then
      v.conclude p 4 (judgeShared v.s v.c v.g ((rowAddrs (a % 2 ^ 32) lay (2 ^ 64)).map fun r =>
          { lane := r.1, addr := r.2, len := 64, align := 64, use := .load }))
        fun v ps => v.load p l.lb.toNat 2 (.tile t false) blank ps
     else
      v.conclude p 4 (judgeGlobal v.s v.c v.g v.k.acc v.k.walked v.k.chainFault ((rowAddrs a lay (2 ^ 64)).flatMap fun r =>
          { lane := r.1, addr := r.2, len := 64, align := 64, use := .load } ::
            (if tags then rowTags v.c .load r.1 r.2 fun _ => 0 else [])))
        fun v ps => v.load p l.lb.toNat 0 (.tile t tags) blank ps)

/-- The K slot commits. -/
def CapView.commitK (v : CapView) (p : PartialBundle) : SlotOut :=
  let k := p.b.k
  let a := v.k.addr k.base.toNat 14 k.off.toNat
  let n := k.dst.toNat
  let z := k.op == 0
  let size := if z then 64 else 16
  let x : Exposed := { seq := 0, fixed := false, issued := 0, bound := 0, minAt := 0, ready := false, regs := 1
                       z := if z then some (n, 0) else none, x := if z then none else some (n, 0) }
  if !v.pathRoom 0 then v.hold p 6
  else v.conclude p 6 (judgeGlobal v.s v.c v.g v.k.acc v.k.walked v.k.chainFault
      [{ lane := 0, addr := a, len := size, align := size, use := .load }])
    fun v ps => v.load p k.lb.toNat 0 (.kreg z n) x ps

/-! ### The W slot (R296 to R299, R398) -/

/-- The bytes of a row of a tile. -/
def CapView.rowBytes (v : CapView) (t r : Nat) : List Byte :=
  (List.range 16).flatMap fun k => let n := 16 * r + k
                                   leBytes 4 (v.word t (n / 32) (n % 32)).1.toNat

/-- The tag of word n of a tile. -/
def CapView.tagOf (v : CapView) (t n : Nat) : Byte := (v.word t (n / 32) (n % 32)).2

/-- A slice-store entry's bytes. -/
def Capstan.entry (k : Capstan) (ix : Nat) : List Byte := readBytes k.slice (64 * (ix % 512)) 64

/-- The reason of R398 that a descriptor breaks. -/
def descFault (s : State) (c : Ctx) (va : Nat) (d : List Byte) : Option Nat :=
  let w := fun n => leNat ((d.drop (8 * n)).take 8)
  let nsrc := bits (w 0) 22 20
  let srcs := (List.range (min nsrc 4)).map fun n => w (3 + n)
  let addr := fun x => bits x 55 12 * 4096
  if c.rkcount ≤ bits (w 0) 15 0 then some 7
  else if 4 < nsrc || bits (w 0) 18 16 != 0 || bits (w 0) 19 19 != 0 || bits (w 0) 63 23 != 0 || w 2 != 0 || w 7 != 0 ||
      (srcs.any fun x => bits x 11 1 != 0 || bits x 63 56 != 0) ||
      ((List.range 4).any fun n => decide (nsrc ≤ n) && w (3 + n) != 0) then some 8
  else if srcs.any fun x => !tbit x 0 && (addr x == va || match regionAt c (addr x) with
      | some (r, n) => let st := recState s c r n
                       st == rsAbsent || st == rsRetired
      | none => true) then some 9
  else if srcs.any fun x => tbit x 0 && ((regionAt c (addr x)).isSome || !c.belay.any fun e => e.1 == addr x && e.2 != 0) then
    some 10
  else none

/-- The faults of a TSTD's address and descriptor offset (R298): cause, reason and address. -/
def tstdFault (c : Ctx) (g : Group) (a off : Nat) : Option (Nat × Nat × Nat) :=
  if a % 4096 ≠ 0 then some (0x06, 0, a)
  else if 2 ^ 56 ≤ a then some (0x08, 6, a)
  else if (regionAt c a).isNone then some (0x08, 2, a)
  else if off % 64 ≠ 0 ∨ g.shbytes < off + 64 then some (0x08, 4, off)
  else none

/-- A store of the Capstan still to be performed overlaps a shared range. -/
def Capstan.storing (k : Capstan) (off n : Nat) : Bool :=
  k.acc.any fun e => e.isSt && e.parts.any fun q => !q.done && (match q.place with
    | .shared _ => overlaps q.pa q.len off n
    | _ => false)

/-- TSTD's data and tags: four tiles' words in order, then their tags (R265, R298). -/
def CapView.tstdBytes (v : CapView) (t : Nat) : List Byte :=
  ((List.range 4).flatMap fun q => (List.range 16).flatMap fun r => v.rowBytes (t + q) r) ++
  ((List.range 4).flatMap fun q => (List.range 256).map fun n => v.tagOf (t + q) n)

/-- A TSTD's access to its tile: all data and tag bytes, at the tile's slice (R265, R302). -/
def tilePart (c : Ctx) (a : Nat) : Part :=
  { addr := a, pa := 0, len := 5120, place := match regionAt c a with
      | some (r, n) => .derived r.die (n % Config.slices)
      | none => .derived 0 0 }

/-- TSTD commits (R298, R398, R405). It reads its descriptor once the Capstan's own stores to it, and what a MARK, FENCE or TAKE
puts before it, have been performed (R37, R306, R313; log 116). -/
def CapView.commitTstd (v : CapView) (p : PartialBundle) (a : Nat) : SlotOut :=
  let w := p.b.w
  let t := w.stile.toNat
  let off := (v.k.readA w.rd.toNat).toNat % 2 ^ 32
  let tiles := (List.range 4).map (t + ·)
  if !v.pathRoom 6 then v.hold p 5
  else v.withTiles p 5 tiles (tiles.map fun n => (n, 255)) 0xFFFFFFFF
    (match tstdFault v.c v.g a off with
     | some (cause, reason, addr) => v.slotFault p 5 cause (BitVec.ofNat 32 reason) addr
     | none =>
       if v.k.storing off 64 || v.k.acc.any (fun e => e.blocks) then v.hold p 5
       else if sharedBad v.g off 64 then v.slotFault p 5 0x0A (BitVec.ofNat 32 (sharedErr v.g.core / 256)) (sharedBadAt v.g off 64)
       else
         let d := readBytes v.g.shared off 64
         match descFault v.s v.c a d, regionAt v.c a with
         | some r, some (rg, n) => v.slotFault p 5 0x12 (BitVec.ofNat 32 r) (recordAddr rg n)
         | _, _ =>
           if (v.g.build.bind (buildByKey v.s)).any fun b => b.va != a then v.violate 3
           else .ok (v.enqueue p.cpc (.tstd a (recordBytes d v.c.step.toNat) (v.tstdBytes t)) false true [tilePart v.c a] (some 6)).put)

/-- The W slot commits. -/
def CapView.commitW (v : CapView) (p : PartialBundle) : SlotOut :=
  let w := p.b.w
  let a := v.k.addr w.base.toNat 18 w.off.toNat
  let t := w.stile.toNat
  let lay := w.layout.toNat
  let store := fun (path : Nat) (v : CapView) (ps : List Part) => SlotOut.ok (v.enqueue p.cpc .store false true ps (some path)).put
  if w.op = 2 then v.commitTstd p a
  else if w.op = 3 then
    if v.g.build.isSome then v.violate 1
    else if !v.pathRoom 1 then v.hold p 5
    else if v.g.badSlice.contains t then v.slotFault p 5 0x0A (BitVec.ofNat 32 (6 + v.g.core / 128 % 8 * 16)) 0
    else v.conclude p 5 (judgeGlobal v.s v.c v.g v.k.acc v.k.walked v.k.chainFault
        [{ lane := 0, addr := a, len := 64, align := 64, use := .store, data := v.k.entry t }]) (store 1)
  else if !v.pathRoom (if w.op = 1 then 2 else 1) then v.hold p 5
  else v.withTiles p 5 [t] [(t, 255)] 0xFFFFFFFF
    (if w.op = 1 then
      v.conclude p 5 (judgeShared v.s v.c v.g ((rowAddrs (a % 2 ^ 32) lay (2 ^ 64)).map fun r =>
          { lane := r.1, addr := r.2, len := 64, align := 64, use := .store, data := v.rowBytes t r.1 })) (store 2)
     else if v.g.build.isSome then v.violate 1
     else
      v.conclude p 5 (judgeGlobal v.s v.c v.g v.k.acc v.k.walked v.k.chainFault ((rowAddrs a lay (2 ^ 64)).flatMap fun r =>
          { lane := r.1, addr := r.2, len := 64, align := 64, use := .store, data := v.rowBytes t r.1 } ::
            (if lay % 2 == 1 then rowTags v.c .store r.1 r.2 (v.tagOf t) else []))) (store 1))
/-! ### The C slot (R359) -/

/-- The C slot commits. -/
def CapView.commitC (v : CapView) (p : PartialBundle) : SlotOut :=
  let c := p.b.c
  let r := fun n => v.k.readA n
  if v.g.build.isSome then v.violate 1
  else if c.op = 2 then
    if !v.pathRoom 6 then v.hold p 7
    else
      let base := (r c.src.toNat).toNat
      let len := (r c.len.toNat).toNat % 2 ^ 32
      .ok (v.enqueue p.cpc (.prefr base len (rangeTiles v.c base len)) true false
        [{ addr := base, pa := 0, place := .host, len := 0 }] (some 6)).put
  else
    let a : CopyArgs := { g := c.op == 1, path := c.path.toNat, dst := (r c.dst.toNat).toNat, src := (r c.src.toNat).toNat
                          len := (r c.len.toNat).toNat % 2 ^ 32, shape := r c.shape.toNat, flags := c.flags.setWidth 32 }
    match a.fault v.g with
    | some reason => v.slotFault p 7 0x18 (BitVec.ofNat 32 reason) 0
    | none => if copyRoom v.s v.g a.flags then .ok (enqueueCopy v.put (v.g.putCap v.k) v.agent a) else v.hold p 7

/-! ### The Y slot (R236, R415, R418, R424, R427) -/

/-- A scope from its code. -/
def scopeOf (n : Nat) : Scope :=
  match n with
  | 0 => .core
  | 1 => .gang
  | 2 => .dev
  | _ => .sys

/-- Does the Capstan's TAKE of a tile complete now (R36)? The bound on the giver's accesses and the giver, if so. -/
def CapView.takeNow (v : CapView) (t : Nat) : Option (Nat × Nat) :=
  match v.g.ownerOf t with
  | .offeredCapstan since giver upto => if takeable v.s v.g t since then some (giver, upto) else none
  | _ => none

/-- A TAKE of the Capstan completes (R236, R313). -/
def CapView.endTake (v : CapView) (bpc : DWord) (t giver upto : Nat) : CapView :=
  let w := { v with g := v.g.setOwner t .capstan, k := { v.k with wait := none, readyAt := v.s.clock + 1 } }
  w.enqueue bpc (.handoff (.strand v.g.gid giver) upto) true true [] none

/-- The Y slot commits. -/
def CapView.commitY (v : CapView) (p : PartialBundle) : SlotOut :=
  let y := p.b.y
  let t := y.tile.toNat
  let id := y.id.toNat
  let wait := fun (w : CWait) => SlotOut.ok { v with k := { v.k with wait := some w, waitSince := v.s.clock } }.put
  match y.op.toNat with
  | 0 => .ok v.put
  | 1 =>
      let j := id / 32
      let m := id % 32
      if v.g.strands.length ≤ j then v.slotFault p 8 0x04 (ownerExtra 4 t) 0
      else if (offerTo v.g j m).isSome then v.slotFault p 8 0x04 (ownerExtra 5 t) 0
      else if v.g.ownerOf t ≠ .capstan then v.slotFault p 8 0x04 (ownerExtra 1 t) 0
      else .ok { v with g := v.g.setOwner t (.offeredStrand j m v.s.clock v.s.nextSeq) }.put
  | 2 =>
      match v.g.ownerOf t with
      | .free | .capstan => v.slotFault p 8 0x04 (ownerExtra 6 t) 0
      | _ => match v.takeNow t with
        | some (giver, upto) => .ok (v.endTake p.cpc t giver upto).put
        | none => wait (.take t)
  | 3 => if v.k.acc.isEmpty then .ok (arriveAt v.put v.g.gid (id / 32 % 16) (id % 32) 1)
         else .ok (v.enqueue p.cpc (.arrive (id / 32 % 16) (id % 32)) false false [] none).put
  | 4 =>
      let gang := y.scope == 1
      match clwaitState v.s v.g (id % 32) (tbit id 5) with
      | some lost => .ok (if lost then v.put else clwaitAcquire v.put v.g.core (id % 32) gang)
      | none => wait (.clwait gang (id % 32) (tbit id 5))
  | 5 =>
      let n := (v.k.readA y.a.toNat).toNat
      let path := id % 8
      if v.g.pathCount path ≤ n then .ok (waitpAcquire v.put v.g path) else wait (.waitp path n)
  | 6 => .ok (v.enqueue p.cpc .mark true true [] none).put
  | 7 => .ok (v.enqueue p.cpc (.fence (scopeOf y.scope.toNat)) true true [] none).put
  | _ =>
      if v.g.build.isSome then v.violate 1
      else if !v.k.acc.isEmpty then v.hold p 8
      else .ok { v with c := v.c.tick v.s.clock }.put

/-! ### Commit order and issue (R62, R64, R65, R67) -/

/-- Does a slot touch a tile that the busy scoreboard keeps from it (R223)? -/
def scoreBlocked (g : Group) (b : Bundle) (ix : Nat) : Bool :=
  let t := slotTiles b ix
  (t.2.any fun n => writeEntry g n || readEntry g n) || t.1.any fun n => writeEntry g n

/-- A slot commits. -/
def CapView.commitSlot (v : CapView) (p : PartialBundle) (ix : Nat) : SlotOut :=
  if isExt p.b ix then v.slotFault p ix 0x03 0 0
  else if scoreBlocked (v.g.putCap v.k) p.b ix then v.hold p ix
  else match ix with
    | 0 => v.commitS p
    | 1 | 2 => v.commitV p ix
    | 3 => v.commitM p
    | 4 => v.commitL p
    | 5 => v.commitW p
    | 6 => v.commitK p
    | 7 => v.commitC p
    | _ => v.commitY p

/-- A slot has committed: the bundle stands before the next one, and free values are fresh. -/
def slotDone (s : State) (gid ix : Nat) : State :=
  match capViewOf { s with free := s.free + 2 ^ 18 } gid with
  | some v =>
      let step := fun (p : PartialBundle) => { p with idx := ix + 1 }
      let w : CapView := { v with k := { v.k with part := v.k.part.map step, slotAt := some s.clock } }
      w.put
  | none => s

/-- The whole bundle has committed: the next one issues in a later clock. -/
def finishBundle (s : State) (gid : Nat) : State :=
  match capViewOf s gid with
  | none => s
  | some v => match v.k.part with
    | none => s
    | some p => { v with k := { v.k with cpc := p.next, part := none, readyAt := max v.k.readyAt (s.clock + 1) } }.put

/-- The remaining slots commit in order. -/
def commitFrom (gid : Nat) : List Nat → State → State
  | [], s => finishBundle s gid
  | ix :: rest, s => match capViewOf s gid with
    | none => s
    | some v => match v.k.part with
      | none => s
      | some p =>
        if !present p.b ix || decide (ix < p.idx) then commitFrom gid rest s
        else match v.commitSlot p ix with
          | .ok s1 => commitFrom gid rest (slotDone s1 gid ix)
          | .stop s1 => s1

/-- May the Capstan act in this clock? A stop or a completion trap lets a bundle that has begun to commit end (R226). -/
def CapView.awake (v : CapView) : Bool :=
  v.g.state == .resident && !v.k.atRest && (v.k.traps.isEmpty || (v.k.part.isSome && v.k.traps.all fun t => t.compl)) &&
  v.k.taken.isNone && v.k.wait.isNone && v.k.pageWait.isNone &&
  decide (v.k.readyAt ≤ v.s.clock) && !(getCore v.s v.g.core).frozen && (v.g.stopReq.isNone || v.k.part.isSome)

/-- Has a result not landed whose bound has come (R67)? -/
def CapView.late (v : CapView) : Bool := v.flying.any fun x => decide (x.bound ≤ v.g.vcyc)

/-- Would the slots of a bundle from one on find room and free tiles (R67, R223, R417, R448)? -/
def CapView.room (v : CapView) (b : Bundle) (start : Nat) : Bool :=
  let ixs := slotIxs.filter fun ix => decide (start ≤ ix) && present b ix && !isExt b ix
  let has := fun ix => ixs.contains ix
  let new := (ixs.filter fun ix => ix == 1 || ix == 2 || ix == 6 || (ix == 4 && b.l.op != 2)).length +
    (if has 3 then (MSlot.tiles b.m).1.length else 0)
  !(ixs.any fun ix => scoreBlocked v.g b ix) &&
  (!has 3 || decide (v.queuedOps < 2)) &&
  (!has 4 || v.pathRoom (if b.l.op = 1 then 2 else 0)) &&
  (!has 5 || v.pathRoom (if b.w.op = 1 then 2 else if b.w.op = 2 then 6 else 1)) &&
  (!has 6 || v.pathRoom 0) && (!has 7 || b.c.op != 2 || v.pathRoom 6) &&
  (!has 7 || b.c.op = 2 || copyRoom v.s v.g (b.c.flags.setWidth 32)) &&
  decide (v.inFlight + new ≤ 64)

/-- The weight of a bundle's slots from one on (R231). -/
def bundleWeight (b : Bundle) (start : Nat) : Nat :=
  slotIxs.foldl (fun n ix => if present b ix && decide (start ≤ ix) then n + (match ix with
    | 0 => 1
    | 1 | 2 => 3 * 2 ^ (vSlot b ix).width.toNat
    | 3 => 0
    | 4 | 5 => 6
    | 6 => 2
    | 7 => 3
    | _ => 1) else n) 0

/-- A Capstan trap at the bundle that would issue: of its fetch, or ILLEGAL_BUNDLE (R64, R241). Of a bundle that TRET re-enters
after its S slot, the slots before the re-entry stay committed, a taken control operation among them, and NPC stays (R438, R444);
R439 has ILLEGAL_BUNDLE resume at slot 0. -/
def CapView.bundleTrap (v : CapView) (cause smask : Nat) (extra : Word) (addr : Nat) : State :=
  match v.g.build with
  | some key => abortBuild v.put key 0x12 4 cause
  | none =>
    let t : CTrap := { cause, sresume := if cause = 0x02 then 0 else (v.k.reenter.map (·.1)).getD 0, smask, bpc := v.k.cpc
                       crpc := v.k.cpc
                       npc := ((v.k.reenter.filter fun r => r.1 != 0).map (·.2.1)).getD (nextBundle v.k.cpc), extra
                       addr := BitVec.ofNat 64 addr, seq := v.s.nextSeq }
    { v with k := { v.k with traps := v.k.traps ++ [t] } }.put

/-- A bundle issues at the present virtual cycle, and VCYC advances (R65). -/
def CapView.begin_ (v : CapView) (b : Bundle) : State :=
  let start := (v.k.reenter.map (·.1)).getD 0
  let p : PartialBundle := { b, cpc := v.k.cpc, idx := start, issued := v.g.vcyc, npc := v.k.reenter.map (·.2.1)
                             seq := v.s.nextSeq }
  let co := getCore v.s v.g.core
  let s := putCore { v.s with nextSeq := v.s.nextSeq + 1 } v.g.core
    { perfCount co 6 1 with weight := co.weight + bundleWeight b start }
  commitFrom v.g.gid slotIxs { v with s, g := { v.g with vcyc := (v.g.vcyc + 1) % 2 ^ 64 }
                                      k := { v.k with part := some p, reenter := none, vcAt := some v.s.clock } }.put

/-- The word a CSRW of the bundle would write; 0 where the S slot does not run again. -/
def CapView.csrWord (v : CapView) (b : Bundle) : Nat :=
  if v.k.reenter.any fun r => r.1 != 0 then 0 else (v.k.readA b.s.a.toNat).toNat % 2 ^ 32

/-- A bundle issues, or one that had begun goes on. -/
def issueBundle (v : CapView) (b : Bundle) : State :=
  if !v.awake then v.s
  else if v.k.part.isSome then commitFrom v.g.gid slotIxs v.s
  else if v.late then v.s
  else if illegalBundle b v.g (v.csrWord b) then v.bundleTrap 0x02 (offending b v.g (v.csrWord b)) 0 0
  else match v.k.reenter with
    | some (start, npc, true) =>
        if slotIxs.any fun ix => decide (start ≤ ix) && present b ix then (if v.room b start then v.begin_ b else v.s)
        else { v with k := { v.k with cpc := npc, reenter := none } }.put
    | some (start, _, false) => if v.room b start then v.begin_ b else v.s
    | none => if v.room b 0 then v.begin_ b else v.s

/-- BUNDLE_ISSUE (R62). -/
def execBundleIssue (b : Bundle) (s : State) : Host.Outcome State Fault Refusal :=
  match curCap s with
  | none => .fault .noCurrentCapstan
  | some v => .next (issueBundle v b)

/-! ### Fetch (R67, R189 to R191, R241, R375) -/

/-- What the Capstan's fetch finds. -/
inductive CapFetch
  | bundle (b : Bundle)
  | state (s : State)

/-- The bundle the Capstan would issue next. -/
def fetchBundle (v : CapView) : CapFetch :=
  if !v.awake then .state v.s
  else if v.k.poisonedSnap && v.k.part.isNone then
    .state ({ v with k := { v.k with poisonedSnap := false } }.bundleTrap 0x0A 0 (BitVec.ofNat 32 (7 + v.g.core / 128 % 8 * 16)) 0)
  else match v.k.part with
  | some p => .bundle p.b
  | none =>
    if slc v.k.cpc then
      let ix := sliceIx v.k.cpc
      if v.k.sld.any fun w => w.entry == ix then .state v.s
      else if v.g.badSlice.contains ix then .state (v.bundleTrap 0x0A 0 (BitVec.ofNat 32 (6 + v.g.core / 128 % 8 * 16)) 0)
      else .bundle (decodeBundle (BitVec.ofNat 512 (leNat (v.k.entry ix))))
    else
      let va := v.k.cpc.toNat
      match checkSys v.s v.c .fetch va 64 with
      | .ok pa _ =>
          if isPoisoned v.s pa then .state ({ v with s := meetAt v.s v.c va }.bundleTrap 0x0A 0 (poisonExtra v.s.fresh pa) va)
          else .bundle (decodeBundle (BitVec.ofNat 512 (readNat v.s.mem pa 64)))
      | .fail 43 _ _ a => .state { v with k := { v.k with pageWait := some (.page a), waitSince := v.s.clock } }.put
      | .fail _ cause extra a =>
          .state ({ v with s := if cause = 0x0A then meetAt v.s v.c va else v.s }.bundleTrap cause 0 extra a)
      | .miss _ => .state v.s

end Sys2Proof.Machine
end

