-- ==== Sys2Proof/Machine/Fetch.lean ====
section
/-! DEFINITION. Fetching a strand's instruction: the checks of R251 with execute permission, and the traps of R241. -/

namespace Sys2Proof.Machine

/-- What a fetch finds. `illegal` is a first word of a long form that is illegal whatever the second, which cannot be fetched:
ILLEGAL_OPCODE comes before every other trap (R56, R87). -/
inductive Fetched
  | words (w0 w1 : DWord)
  | fault (cause : Nat) (extra : Word) (addr : Nat) (iw0 : Option DWord)
  | page (va : Nat) (iw0 : Option DWord)
  | illegal (w0 : DWord)
  deriving DecidableEq, Repr

/-- Eight bytes fetched at an address. -/
def fetchWord (s : State) (c : Ctx) (va : Nat) : Verdict × DWord :=
  match checkSys s c .fetch va 8 with
  | .ok pa pl =>
      if isPoisoned s pa then (.fail 70 0x0A (poisonExtra s.fresh pa) va, 0)
      else (.ok pa pl, BitVec.ofNat 64 (readNat s.mem pa 8))
  | r => (r, 0)

/-- A fetch that finds no word. -/
def Verdict.unfetched (r : Verdict) (iw0 : Option DWord) : Fetched :=
  match r with
  | .fail 43 _ _ a => .page a iw0
  | .fail _ cause extra a => .fault cause extra a iw0
  | .miss p => .page (p * 65536) iw0
  | .ok pa _ => .page pa iw0

/-- Does a first word decode to no instruction with any second word? No rule restricts a long form's immediate (R52). -/
def illegalAlone (w0 : DWord) : Bool :=
  match decodeWords w0 0 with
  | .ok _ => false
  | .error _ => true

/-- The instruction words at an address; the second word is zero in the short form. -/
def fetchWords (s : State) (c : Ctx) (pc : Nat) : Fetched :=
  match fetchWord s c pc with
  | (.ok _ _, w0) =>
      if longForm w0 then
        match fetchWord s c (pc + 8) with
        | (.ok _ _, w1) => .words w0 w1
        | (r, _) => if illegalAlone w0 then .illegal w0 else r.unfetched (some w0)
      else .words w0 0
  | (r, _) => r.unfetched none

/-- A fetch that faults traps at the target's PC (R241), with EM as the lane mask (R439); in a recompute group it aborts the chain
with reason 4, also where its line is poisoned (R405). The word that could not be fetched is a free value (log 14). -/
def fetchTrap (v : View) (cause : Nat) (extra : Word) (addr : Nat) (iw0 : Option DWord) : State :=
  let w := iw0.getD (Config.freeInstrWord v.s.free)
  let s := if cause = 0x0A then meetAt v.s v.c addr else v.s
  let v1 : View := { v with s := if iw0.isSome then s else { s with free := s.free + 1 } }
  match v.g.build with
  | some key => abortBuild v1.put key 0x12 4 cause
  | none => raiseTrap v1 { cause, pc := v.st.pc, rpc := v.st.pc, lanes := v.st.em, extra, addr := BitVec.ofNat 64 addr,
                           long := iw0.isSome, iw0 := w, iw1 := 0 }

/-- A fetch of a pager-owned page: the strand waits for it (R375). -/
def fetchWait (v : View) (va : Nat) : State :=
  { v with st := { v.st with wait := some { kind := .page va, since := v.s.clock, len := 0 } } }.put

end Sys2Proof.Machine
end

