-- ==== Sys2Proof/Machine/CapEvents.lean ====
section
/-! DEFINITION. What happens to a Capstan between its bundles: results land (R66, R70, R71, R448), the engine runs (R220 to
R226), a freeze ends (R67), and a Capstan trap is taken and delivered (R437, R438, R442, R443). -/

namespace Sys2Proof.Machine

/-! ### Landing (R66, R70, R71, R294, R448) -/

/-- A later result has written a destination first: what it covers of an earlier one is discarded (R66, R70). -/
def Exposed.cover (x y : Exposed) : Exposed :=
  if y.seq < x.seq && x.meets y && !(x.fixed && y.fixed) then { y with dead := (x.regs, x.lanes) :: y.dead } else y

/-- The words of a result that land. -/
def Exposed.lands (x : Exposed) : List VWrite := x.v.filter fun w => !maskHas x.dead w.reg w.lane

/-- Counts added to a group's QSAT and QUND (R178, R431). -/
def Group.count (g : Group) (qsat qund : Nat) : Group :=
  { g with qsat := min 0xFFFFFFFF (g.qsat + qsat), qund := min 0xFFFFFFFF (g.qund + qund)
           qsatNow := min 0xFFFFFFFF (g.qsatNow + qsat), qundNow := min 0xFFFFFFFF (g.qundNow + qund) }

/-- A result lands: its words, Z or X register and counts; what it overtakes is discarded. -/
def CapView.land (v : CapView) (x : Exposed) : CapView :=
  let g := (v.g.writeWords x.lands).count x.qsat x.qund
  let z := match x.z with
    | some (n, w) => if x.dead.isEmpty then v.k.z.setIfInBounds n w else v.k.z
    | none => v.k.z
  let xs := match x.x with
    | some (n, w) => if x.dead.isEmpty then v.k.x.setIfInBounds n w else v.k.x
    | none => v.k.x
  let keep := fun (l : List Exposed) => (l.filter fun y => y.seq != x.seq).map x.cover
  { v with g := { g with snaps := keep g.snaps }, k := { v.k with z, x := xs, res := keep v.k.res } }

/-- Must an earlier result land first? Native results bound for one register land in issue order, fixed ones in the order of
their landing cycles (R66, R71, R205). -/
def CapView.behind (v : CapView) (x : Exposed) : Bool :=
  v.flying.any fun y => x.shares y && if x.fixed then y.fixed && (decide (y.bound < x.bound) || (y.bound == x.bound && decide (y.seq < x.seq)))
    else !y.fixed && decide (y.seq < x.seq)

/-- Has the cycle of a fixed result come: the bundles that issue from now on read it, and no bundle still commits that may
not? -/
def CapView.reached (v : CapView) (x : Exposed) : Bool :=
  (decide (x.bound ≤ v.g.vcyc) && !v.k.part.any fun p => decide (p.issued < x.bound)) || v.k.atRest

/-- EXPOSED_RESULT_LAND: a result whose data is there lands; a native one at any cycle after its own bundle's, a fixed one
at its landing cycle. -/
def execExposedResultLand (gid seq : Nat) (s : State) : Host.Outcome State Fault Refusal :=
  .next (match capViewOf s gid with
    | none => s
    | some v => match v.k.res.find? fun x => x.seq == seq with
      | none => s
      | some x =>
        let due := if x.fixed then v.reached x else !v.k.part.any fun p => decide (p.issued ≤ x.issued)
        if x.ready && decide (x.minAt ≤ s.clock) && due && !v.behind x then (v.land x).put else s)

/-- SLD_WRITE_LAND: the oldest write in flight to the entry lands, once its data is there (R294). -/
def execSldWriteLand (gid entry : Nat) (s : State) : Host.Outcome State Fault Refusal :=
  .next (match capViewOf s gid with
    | none => s
    | some v => match v.k.sld.find? fun w => w.entry == entry with
      | some { seq, entry := _, data := some bs } =>
          { v with g := { v.g with badSlice := v.g.badSlice.filter (· != entry) }
                   k := { v.k with slice := writeBytes v.k.slice (64 * entry) bs, sld := v.k.sld.filter fun w => w.seq != seq } }.put
      | _ => s)

/-! ### The engine (R220 to R226) -/

/-- MMA_START: the oldest waiting operation starts once no other runs, also none that a stop has left to the engine. -/
def execMmaStart (gid : Nat) (s : State) : Host.Outcome State Fault Refusal :=
  .next (match capViewOf s gid with
    | none => s
    | some v => match v.k.eng with
      | e :: rest =>
          if e.started || !(getCore s v.g.core).drain.isEmpty then s
          else
            let e' := { e with started := true, relAt := s.clock + if e.occ = 128 then 32 else 2 }
            { v with k := { v.k with eng := e' :: rest } }.put
      | [] => s)

/-- SCOREBOARD_READ_RELEASE: the read entries of a started operation go. -/
def execScoreboardReadRelease (gid seq : Nat) (s : State) : Host.Outcome State Fault Refusal :=
  .next (match capViewOf s gid with
    | none => s
    | some v =>
      let free := fun (e : EngineOp) =>
        if e.seq == seq && e.started && decide (e.relAt ≤ s.clock) then { e with rdReleased := true } else e
      { v with k := { v.k with eng := v.k.eng.map free } }.put)

/-- The D tiles of an operation are written and checked (R225, R226). A recompute group's chain aborts on a failure. -/
def CapView.finishOp (v : CapView) (e : EngineOp) : State :=
  let w : CapView := { v with g := v.g.writeWords e.v }
  match if e.check then matFailure e.dtiles e.v v.k.mth else none with
  | none => w.put
  | some (t, ix, n) => match v.g.build with
    | some key => abortFor w.put key 0x0C 0
    | none =>
      let c : CTrap := { cause := 0x0C, compl := true, smask := 0x020, bpc := e.bpc, crpc := v.k.cpc, npc := v.k.cpc
                         extra := BitVec.ofNat 32 (t % 512 + ix % 256 * 2 ^ 9 + n % 32 * 2 ^ 17), seq := e.seq, due := v.k.trapDue v.s.clock }
      { w with k := { w.k with traps := w.k.traps ++ [c] } }.put

/-- An operation that completes while MSE is 0 is not checked (R226). -/
def EngineOp.completes (e : EngineOp) (mse : Bool) : EngineOp := { e with check := e.check && mse }

/-- MMA_COMPLETE: the running operation's occupancy has ended. -/
def execMmaComplete (gid : Nat) (s : State) : Host.Outcome State Fault Refusal :=
  .next (match capViewOf s gid with
    | none => s
    | some v => match v.k.eng with
      | e :: rest => if e.started && e.left == 0 then ({ v with k := { v.k with eng := rest } } : CapView).finishOp (e.completes v.k.mse) else s
      | [] => s)

/-- SNAPSHOT_ENTRY_LAND: an entry lands at its recorded cycle after resumption (R40, R230, R448). -/
def execSnapshotEntryLand (gid seq : Nat) (s : State) : Host.Outcome State Fault Refusal :=
  .next (match capViewOf s gid with
    | none => s
    | some v => match v.g.snaps.find? fun x => x.seq == seq with
      | none => s
      | some x =>
        if v.g.state == .resident && v.k.taken.isNone && v.k.traps.isEmpty && x.ready && v.reached x && !v.behind x then
          match x.op with
          | some e => (v.land x).finishOp (if e.left = 0 then e else e.completes v.k.mse)
          | none => (v.land x).put
        else s)

/-! ### The end of a freeze (R67) -/

/-- Is the page of a recipe record there (R375)? -/
def pageThere (s : State) (c : Ctx) (va : Nat) : Bool :=
  match walk s c va with
  | .absent .. => false
  | _ => true

/-- Is what a waiting slot waits for there: the page, the map word, or the tile, which may also carry a fault? -/
def CapView.thawed (v : CapView) : WaitKind → Bool
  | .page va => match walk v.s v.c va with
    | .absent _ true => false
    | _ => true
  | .mapWord h p => match checkHandle v.s v.c h with
    | .ok e => !absentWord (mapWordAt v.s v.c e p)
    | .error _ => true
  | .tile va => (tileUnready v.s v.c va).isNone || v.k.chainFault.isSome
  | .record va => pageThere v.s v.c va
  | _ => true

/-- Is a walk retried only with the group's conversion, which a full pager ring holds (R454)? -/
def WaitKind.heldBack (k : WaitKind) (g : Group) : Bool :=
  (g.convTry.any fun t => t.2) && match k with
    | .page _ | .mapWord .. | .record _ => true
    | _ => false

/-- Is a walk of the Capstan retried only with its group's conversion, which a full pager ring holds (R454)? -/
def CapView.heldBack (v : CapView) : Bool := v.k.pageWait.any fun w => w.heldBack v.g

/-- CORE_FREEZE_END: the cause of the Capstan's freeze has ended, and the next bundle issues. -/
def execCoreFreezeEnd (gid : Nat) (s : State) : Host.Outcome State Fault Refusal :=
  .next (match capViewOf s gid with
    | none => s
    | some v =>
      if !v.heldBack && v.k.pageWait.all fun k => v.thawed k then
        let w : CapView := { v with k := { v.k with pageWait := none } }
        let u : CapView := { w with s := w.put }
        match fetchBundle u with
        | .bundle b => issueBundle u b
        | .state t => t
      else s)

/-! ### A Capstan trap (R437, R438, R442, R443) -/

/-- The operations of the engine as snapshot entries: each lands when its occupancy would end, and the engine completes it in
core clocks (R230). `wait` is the occupancy of the operations before. -/
def engineSnaps (vcyc : Nat) (mse : Bool) (wait : Nat) : List EngineOp → List Exposed
  | [] => []
  | e :: rest =>
      let left := wait + e.left
      let o := { e with left, rdReleased := true }
      { seq := e.seq, fixed := true, issued := vcyc, bound := vcyc + left, minAt := 0, ready := true
        op := some (if left = 0 then o.completes mse else o) } :: engineSnaps vcyc mse left rest

/-- The occupancy that the operations stopped earlier still have. -/
def Core.drainLeft (co : Core) : Nat := co.drain.foldl (fun n e => n + e.1) 0

/-- The engine of a core completes the operations of a Capstan that stops (R230). -/
def Core.stopEngine (co : Core) (k : Capstan) : Core := { co with drain := co.drain ++ k.eng.map fun e => (e.left, e.weight) }

/-- The results in flight, and the operations of the engine, as the snapshot buffer takes them (R230, R448). -/
def Capstan.snapped (k : Capstan) (vcyc : Nat) (co : Core) : List Exposed := k.res ++ engineSnaps vcyc k.mse co.drainLeft k.eng

/-- The results in flight go to the snapshot buffer (R448). -/
def CapView.snapshot (v : CapView) : CapView :=
  let co := getCore v.s v.g.core
  { v with s := putCore v.s v.g.core (co.stopEngine v.k)
           g := { v.g with snaps := v.g.snaps ++ v.k.snapped v.g.vcyc co }
           k := { v.k with res := [], eng := [] } }

/-- Where a completion trap resumes: the bundle that would have issued next and the slot, and the bundle after it; a
bundle whose slot has faulted is at that slot (R226). -/
def Capstan.resumeAt (k : Capstan) : DWord × Nat × DWord :=
  match k.part with
  | some p => (p.cpc, p.idx, p.next)
  | none => match k.reenter with
    | some (start, npc, _) => if 8 < start then (npc, 0, nextBundle npc) else (k.cpc, start, npc)
    | none => (k.cpc, 0, nextBundle k.cpc)

/-- The trap that is reported: the one issued earliest (R443). -/
def Capstan.earliest (k : Capstan) : Option CTrap :=
  k.traps.foldl (fun (b : Option CTrap) t => match b with
    | some x => if t.seq < x.seq then some t else b
    | none => some t) none

/-- A trap with its resume point. -/
def CTrap.placed (t : CTrap) (k : Capstan) : CTrap :=
  if t.compl then let r := k.resumeAt
                  { t with crpc := r.1, sresume := r.2.1, npc := r.2.2 }
  else t

/-- The Capstan record (R437). -/
def CTrap.bytes (t : CTrap) (k : Capstan) : List Byte :=
  leBytes 8 (t.cause + 2 ^ 8 + b2n t.compl * 2 ^ 10 + t.sresume * 2 ^ 16 + t.smask * 2 ^ 20) ++
  leBytes 8 t.bpc.toNat ++ leBytes 8 t.crpc.toNat ++
  leBytes 8 (t.extra.toNat + (if slc t.bpc then sliceIx t.bpc else 0) * 2 ^ 32 + k.rstk.length * 2 ^ 41) ++
  leBytes 8 t.addr.toNat ++ leBytes 8 ((k.rstk.getLast?).getD 0).toNat ++ leBytes 8 t.slotw.toNat ++ leBytes 8 t.hdr.toNat

/-- The registers of CREG up to L3 (R438). -/
def Capstan.regBytes (k : Capstan) : List Byte :=
  ((List.range 64).flatMap fun n => leBytes 8 (k.readA n).toNat) ++
  (k.z.toList.flatMap fun z => leBytes 64 z.toNat) ++ (k.x.toList.flatMap fun x => leBytes 16 x.toNat) ++
  (k.l.toList.flatMap fun l => leBytes 4 l.toNat)

/-- The return stack, VCYC and NPC of CREG (R438). An entry above RSP holds nothing the spec states: a free value. -/
def CapView.tailBytes (v : CapView) (npc : DWord) : List Byte :=
  ((List.range 8).flatMap fun n => leBytes 8 (match v.k.rstk[n]? with
    | some pc => pc.toNat
    | none => (Config.freeWide (v.s.free + n)).toNat)) ++
  leBytes 8 v.g.vcyc ++ leBytes 8 npc.toNat

/-- CREG and CREC are written (R437, R438, R442). -/
def CapView.writeTrap (v : CapView) (t : CTrap) : State :=
  let at_ := v.c.trapvec
  let s1 := sysWrite { v.s with free := v.s.free + 8 } v.c (at_ + 0x1000) (v.k.regBytes ++ leBytes 4 (v.k.cstat v.k.cpc))
  sysWrite (sysWrite s1 v.c (at_ + 0x1AA0) (v.tailBytes t.npc)) v.c (at_ + 0x900) (t.bytes v.k)

/-- A Capstan trap that no strand is left to handle, or with no writable block, ends the context (R442, R444). -/
def CapView.fatal (v : CapView) (t : CTrap) : State :=
  endContext (sysWrite v.put v.c (v.c.trapvec + 0x40) (t.bytes v.k)) v.c.id t.cause

/-- The trap is taken: the Capstan stops, its results in flight go to the snapshot buffer, CREG and CREC are written, and
a MATRIX_SIGNIFICANCE trap clears MSE (R226, R442). Its delivery then finds the strand, or ends the context. -/
def CapView.takeTrap (v : CapView) (t : CTrap) : State :=
  let w := v.snapshot
  if !blockWritable v.s v.c 0x900 64 || !blockWritable v.s v.c 0x1000 0xAF0 then w.fatal t
  else
    let s := w.writeTrap t
    { w with s, k := { w.k with traps := [], part := none, reenter := none, pageWait := none, taken := some t
                                delivered := false, mse := v.k.mse && t.cause != 0x0C } }.put

/-- CAPSTAN_TRAP: the earliest pending trap is taken; a completion trap waits for the bundle boundary. -/
def execCapstanTrap (gid : Nat) (s : State) : Host.Outcome State Fault Refusal :=
  .next (match capViewOf s gid with
    | none => s
    | some v => match v.k.earliest with
      | none => s
      | some t =>
        if v.g.state == .resident && v.k.taken.isNone && decide (t.due ≤ s.clock) && (v.k.part.isNone || v.k.traps.any fun t => !t.compl) then
          v.takeTrap (t.placed v.k)
        else s)

/-- A wait that a stop, or a Capstan trap, takes a strand out of (R442, R446). -/
def WaitKind.leaves : WaitKind → Bool
  | .launch .. | .belay .. | .sched _ | .tkreform .. | .retire .. => false
  | _ => true

/-- The record of a delivered Capstan trap, at the strand's next instruction (R442). -/
def deliveryRec (v : View) (t : CTrap) : View × TrapRec :=
  let r : TrapRec := { cause := t.cause, kind := 1, pc := v.st.pc, rpc := v.st.pc }
  match fetchWords v.s v.c v.st.pc.toNat with
  | .words w0 w1 => (v, { r with long := longForm w0, iw0 := w0, iw1 := w1 })
  | .fault _ _ _ (some w0) | .page _ (some w0) | .illegal w0 =>
      ({ v with s := { v.s with free := v.s.free + 1 } }, { r with long := true, iw0 := w0, iw1 := Config.freeInstrWord v.s.free })
  | _ => ({ v with s := { v.s with free := v.s.free + 1 } }, { r with iw0 := Config.freeInstrWord v.s.free })

/-- CAPSTAN_TRAP_DELIVERY: the handler strand enters its handler once it is at a boundary, in no handler, and has no trap of
its own (R442, R443). -/
def execCapstanTrapDelivery (gid : Nat) (s : State) : Host.Outcome State Fault Refusal :=
  .next (match capViewOf s gid with
    | none => s
    | some v => match v.k.taken with
      | none => s
      | some t =>
        if v.k.delivered then s
        else match v.g.handlerStrand with
        | none => v.fatal t
        | some j =>
          let w : CapView := { v with k := { v.k with delivered := true } }
          match viewOf w.put gid j 0 0 with
          | none => s
          | some u =>
            if v.g.state == .resident && u.st.handler.isNone && u.st.trap.isNone && u.st.quiet &&
                u.st.wait.all (fun x => x.kind.leaves) then
              let r := deliveryRec u t
              enterTrap r.1.put gid j r.2
            else s)

end Sys2Proof.Machine
end

