-- ==== Sys2Proof/Machine/Coll.lean ====
section
/-! DEFINITION. Queues II: Hawser collectives, tackles and their links (R360 to R370, R459). -/

namespace Sys2Proof.Machine

/-! ### Tackles and descriptors (R360, R361, R364, R366) -/

/-- The die of a core (R13). -/
def dieOf (core : Nat) : Nat := core / 128

/-- The tackles registered at an address for a context on a die, by their place in the list. -/
def tacklesAt (s : State) (ctx die addr : Nat) : List (Nat × Tackle) :=
  (s.tackles.zipIdx.map fun e => (e.2, e.1)).filter fun e => e.2.addr == addr && e.2.ctx == ctx && e.2.die == die && !e.2.gone

/-- A collective descriptor (R364). -/
structure CollDesc where
  src : Nat
  dst : Nat
  count : Nat
  rop : Nat
  root : Nat
  rank : Nat
  stat : Nat
  cleat : Nat
  cle : Bool
  clean : Bool
  deriving DecidableEq, Repr

/-- The descriptor in 64 bytes; `clean` says that its reserved bits are zero. -/
def collDesc (bs : List Byte) : CollDesc :=
  let w := fun k => leNat ((bs.drop (8 * k)).take 8)
  { src := w 0, dst := w 1, count := bits (w 2) 31 0, rop := bits (w 2) 35 32, root := bits (w 2) 47 36,
    rank := bits (w 2) 59 48, stat := w 3, cleat := bits (w 4) 4 0, cle := tbit (w 4) 5,
    clean := bits (w 2) 63 60 == 0 && w 4 / 64 == 0 && w 5 == 0 && w 6 == 0 && w 7 == 0 }

/-- Does a kind reduce? -/
def reduces (k : CollKind) : Bool := k == .allreduce || k == .redscat

/-- Does a descriptor break R366 for a tackle? The rule on ROP and FMT is one of the reducing kinds. -/
def collBad (x : Tackle) (k : CollKind) (f : Fmt) (d : CollDesc) : Bool :=
  decide (x.nmem ≤ d.rank) || (x.entries[d.rank]? != some (x.device, x.die)) ||
  (reduces k && (decide (5 < d.rop) || ((f == .b32) != decide (3 ≤ d.rop)))) ||
  (!reduces k && d.rop != 0) || (k != .bcast && d.root != 0) || decide (x.nmem ≤ d.root) ||
  (k == .barrier && d.count != 0) || d.src % collSize f != 0 || d.dst % collSize f != 0 || d.stat % 8 != 0 || !d.clean

/-- The member of the tackle at an address that a descriptor names; none where R366 refuses. -/
def collMember (s : State) (ctx die addr : Nat) (k : CollKind) (f : Fmt) (d : CollDesc) : Option (Nat × Tackle) :=
  match (tacklesAt s ctx die addr).find? fun e => e.2.rank == d.rank with
  | some (t, x) => if collBad x k f d then none else some (t, x)
  | none => none

/-- A tackle's statuses of the last 64 collectives. -/
def Tackle.trim (x : Tackle) : Tackle :=
  { x with status := x.status.filter fun e => decide ((x.nextseq + 65536 - e.1 - 1) % 65536 < 64) }

/-! ### COLL (R365) -/

/-- Do a message and a member's collective agree (R367)? -/
def collAgrees (c : Coll) (m : CollMsg) : Bool :=
  m.kind == c.kind && m.fmt == c.fmt && m.count == c.count && m.rop == c.rop && m.root == c.root

/-- COLL's effect once its descriptor has been read and checked. A message that came before it is held to it now (R367). -/
def collIssue (v : View) (k : CollKind) (f : Fmt) (sd : Nat) (d : CollDesc) (t : Nat) (x : Tackle) : State :=
  let seq := x.nextseq
  let op := v.s.nextSeq
  let ticket := BitVec.ofNat 32 (x.gen % 65536 * 65536 + seq)
  let w := ({ v with s := { v.s with nextSeq := op + 1 }, g := v.g.pathRaise 5 op } : View)
  let w := (w.fly 2 [] [(sd, ticket)]).advance 8
  let s1 := { w with st := { w.st with readyAt := v.s.clock + 2 } }.put
  let mine : Coll :=
    { seq, gen := x.gen, gid := v.g.gid, core := v.g.core, opseq := op, lastAt := v.s.clock, kind := k, fmt := f, count := d.count, rop := d.rop, root := d.root,
      rank := d.rank, src := d.src, dst := d.dst, stat := d.stat, cleat := d.cleat, cle := d.cle,
      msgs := x.early.filter fun m => m.seq == seq }
  let x1 := { x with nextseq := (seq + 1) % 65536, pending := x.pending ++ [mine],
                     early := x.early.filter fun m => m.seq != seq }
  let s2 := putTackle s1 t x1.trim
  if x.aborted then
    let s3 := if x.forwarded then s2
      else putTackle { s2 with outbox := s2.outbox ++ [.abort x.tkid x.gen x.crank x.ecode] } t { x1.trim with forwarded := true }
    endColl s3 t mine 2 x.crank x.ecode
  else if mine.msgs.all (collAgrees mine) then s2
  else endGeneration (endColl s2 t mine 4 x.rank 4) t x.rank 4

/-- COLL: a release at device scope; held while the member has 16 collectives PENDING (R361). -/
def execColl (h : Hd) (f : Fmt) (kind : CollKind) (sd : SR) (a : Fin 256) (m : SR) (s : State) :
    Host.Outcome State Fault Refusal :=
  let n : Need := { port := .mem, len := 8, coll := true, sregs := [sd.val, 2 * a.val, 2 * a.val + 1, m.val, m.val + 1],
                    path := some 5, noRegion := true, noRecompute := true, drained := true }
  match curView s with
  | none => .fault .noCurrentStrand
  | some v => if v.canIssue h n then
      .next ((v.charge n).gate h n fun vc =>
        if !v.st.actsOnce h then (vc.advance 8).put
        else
          let at_ := (readSS v.g (2 * a.val)).toNat
          if at_ % 64 ≠ 0 then vc.trapAt 0x06 8 (v.st.acting h) 0 at_
          else match readSys v.s v.c .load at_ 64 with
            | .fail 43 _ _ va => (v.waitAt (.page va) 8).put
            | .fail 44 _ _ va => (v.waitAt (.record va) 8).put
            | .fail _ cause extra va => vc.trapAt cause 8 (v.st.acting h) extra va
            | .tile t va => v.meetOrFault h n t va
            | .bytes bs =>
              let d := collDesc bs
              match collMember v.s v.c.id (dieOf v.g.core) (readSS v.g m.val).toNat kind f d with
              | none => vc.trapAt 0x18 8 (v.st.acting h) 15 0
              | some (t, x) => if 16 ≤ x.pending.length then v.put else collIssue vc.settled kind f sd.val d t x)
    else .next s

/-! ### Running a collective (R363, R367) -/

/-- One step of a reduction (R363). -/
def reduceStep (f : Fmt) (rop acc v : Nat) : Nat :=
  let fl := fun op : FOp => (fpElem op f .rn false ⟨0, 1, 0⟩ (opdOf f acc 0xFF 0) (opdOf f v 0xFF 0) (opdOf f 0 0xFF 0)).1
  let pick := fun lower : Bool => if (elemInt f acc 0 < elemInt f v 0) == lower then acc else v
  match rop with
  | 0 => if f.isFloat then fl .add else (acc + v) % 2 ^ 32
  | 1 => if f.isFloat then fl .min else pick true
  | 2 => if f.isFloat then fl .max else pick false
  | 3 => acc &&& v
  | 4 => acc ||| v
  | _ => acc ^^^ v

/-- The element e of a message from its byte n on. -/
def msgElem (f : Fmt) (m : CollMsg) (n : Nat) : Nat := leNat ((m.bytes.drop n).take (collSize f))

/-- The message of a rank. -/
def collMsgOf (c : Coll) (rank : Nat) : Option CollMsg := c.msgs.find? fun m => m.rank == rank

/-- The reduction of the elements at a byte of every rank's message, in rank order. -/
def reduceAt (c : Coll) (nmem n : Nat) : Nat :=
  match (List.range nmem).filterMap fun r => (collMsgOf c r).map fun m => msgElem c.fmt m n with
  | [] => 0
  | e :: es => es.foldl (reduceStep c.fmt c.rop) e

/-- The bytes of a member's destination (R362). -/
def collResult (c : Coll) (nmem : Nat) : List Byte :=
  let sz := collSize c.fmt
  let blk := c.count * sz
  let from_ := fun r => ((collMsgOf c r).map (·.bytes)).getD []
  match c.kind with
  | .allreduce => (List.range c.count).flatMap fun e => leBytes sz (reduceAt c nmem (e * sz))
  | .redscat => (List.range c.count).flatMap fun e => leBytes sz (reduceAt c nmem (c.rank * blk + e * sz))
  | .allgather => (List.range nmem).flatMap from_
  | .bcast => from_ c.root
  | .alltoall => (List.range nmem).flatMap fun r => ((from_ r).drop (c.rank * blk)).take blk
  | .barrier => []

/-- The ranks whose messages a member needs. -/
def collNeeds (c : Coll) (nmem : Nat) : List Nat :=
  match c.kind with
  | .bcast => [c.root]
  | _ => List.range nmem

/-- A local access of a collective faults: the member takes ERROR, and the generation ends (R367). -/
def collError (s : State) (t : Nat) (x : Tackle) (c : Coll) : State :=
  endGeneration (endColl s t c 3 x.rank 3) t x.rank 3

/-- The member's pending collective replaced, with a message sent or received now. -/
def touchColl (s : State) (t : Nat) (x : Tackle) (c : Coll) : State :=
  putTackle s t { x with pending := x.pending.map fun p => if p.opseq == c.opseq then { c with lastAt := s.clock } else p }

/-- The engine reads the member's source and sends it to every member. -/
def collSend (s : State) (cx : Ctx) (t : Nat) (x : Tackle) (c : Coll) : State :=
  let l := (List.range (collSrcLen c x.nmem)).map fun n => readSys s cx (.copySrc false) (add64 c.src n) 1
  match readFailure l with
  | some (.fail r cause _ va) =>
      if awayRank r then askPage s cx va else collError (if cause = 0x0A then meetAt s cx va else s) t x c
  | some (.tile t _) => meetTile s cx none t
  | _ =>
    let m : CollMsg := { gen := x.gen, seq := c.seq, rank := c.rank, kind := c.kind, fmt := c.fmt, count := c.count,
                         rop := c.rop, root := c.root, bytes := readAll l }
    touchColl { s with outbox := s.outbox ++ [.collData x.tkid m] } t x { c with sent := true, msgs := c.msgs ++ [m] }

/-- Do the places of a list of written bytes cover a physical line (R271)? -/
def coversAll (l : List Verdict) (line : Nat) : Bool :=
  (List.range 128).all fun n => l.any fun w => match w with
    | .ok p _ => p == line + n
    | _ => false

/-- The engine writes the member's destination, and the collective is DONE. A byte of the destination that overlaps the
source, but for an equal one of .allreduce and .bcast, is free (R362). -/
def collFinish (s : State) (cx : Ctx) (t : Nat) (x : Tackle) (c : Coll) : State :=
  let bs := collResult c x.nmem
  let l := (List.range bs.length).map fun n => checkSys s cx (.copyDst false) (add64 c.dst n) 1
  let stop := (if c.stat = 0 then l else l ++ [checkSys s cx .store c.stat 8]).find? fun v => match v with
    | .ok pa _ => isPoisoned s pa && !coversAll l (pa / 128 * 128)
    | _ => true
  match stop with
  | some (.fail r _ _ va) => if awayRank r then askPage s cx va else collError s t x c
  | some (.ok pa _) => collError (meetPoison s pa) t x c
  | some (.miss _) => s
  | none =>
    let srcLen := collSrcLen c x.nmem
    let same := c.src == c.dst && (c.kind == .allreduce || c.kind == .bcast)
    let bs := bs.mapIdx fun n b => if !same && overlaps (c.dst + n) 1 c.src srcLen then Config.freeByte (s.free + n) else b
    let s1 := (l.zip bs).zipIdx.foldl (fun s p => match p.1.1 with
      | .ok pa _ => writeLine s (some cx.id) (add64 c.dst p.2) pa [p.1.2]
      | _ => s) { s with free := s.free + bs.length }
    endColl (touchColl (curePoison s1 (coversAll l)) t x c) t c 1 0 0

/-- COLL_COMPLETE: the engine sends a collective's data, and completes it once every block it needs is there. -/
def execCollComplete (tackle seq : Nat) (s : State) : Host.Outcome State Fault Refusal :=
  .next (match (s.tackles[tackle]?).bind fun x => (getCtx s x.ctx).bind fun cx =>
      (x.pending.find? fun p => p.seq == seq).map fun c => (x, cx, c) with
    | none => s
    | some (x, cx, c) =>
      if c.fin.isSome then (if statusAway s cx c then askPage s cx c.stat else endColl s tackle c 0 0 0)
      else if x.aborted then s
      else if c.failed then collError s tackle x c
      else if !c.sent then collSend s cx tackle x c
      else if (collNeeds c x.nmem).all fun r => (collMsgOf c r).isSome then collFinish s cx tackle x c
      else s)

/-- Has the tackle's current generation been aborted? While a reform waits, STATE is still that of the generation before, and an ABORT
of the new one has been forwarded (R367, R370). -/
def Tackle.ceased (x : Tackle) : Bool := if x.reformSince.isSome then x.forwarded else x.aborted

/-- COLL_DATA_RECEIVE: a block of a rank arrives. -/
def execCollDataReceive (tackle : Nat) (msg : CollMsg) (s : State) : Host.Outcome State Fault Refusal :=
  .next (match s.tackles[tackle]? with
    | none => s
    | some x =>
      if x.ceased || msg.gen != x.gen || decide (x.nmem ≤ msg.rank) then s
      else match x.pending.find? fun p => p.seq == msg.seq && p.gen == msg.gen && p.fin.isNone with
        | some c =>
            if !collAgrees c msg then endGeneration (endColl s tackle c 4 x.rank 4) tackle x.rank 4
            else if (collMsgOf c msg.rank).isSome then s
            else touchColl s tackle x { c with msgs := c.msgs ++ [msg] }
        | none =>
            if (msg.seq + 65536 - x.nextseq) % 65536 < 32768 then putTackle s tackle { x with early := x.early ++ [msg] }
            else s)

/-- TKTIMEOUT in core clocks. -/
def tkInterval (c : Ctx) : Nat := c.tktimeout.toNat * 1024

/-- Has the oldest PENDING collective of a tackle sent and received nothing for the progress interval (R367)? -/
def Tackle.stuck (x : Tackle) (c : Ctx) (clock : Nat) : Bool :=
  !x.aborted && (x.pending.find? fun p => p.fin.isNone).any fun p => decide (p.lastAt + tkInterval c ≤ clock)

/-- COLL_TIMEOUT: the progress timer of a tackle runs out (R367). -/
def execCollTimeout (tackle : Nat) (s : State) : Host.Outcome State Fault Refusal :=
  .next (match (s.tackles[tackle]?).bind fun x => (getCtx s x.ctx).map fun c => (x, c) with
    | none => s
    | some (x, c) =>
      if x.stuck c s.clock then endGeneration s tackle x.rank 1 else s)

/-- HAWSER_ABORT_RECEIVE: an ABORT of the current generation ends it with ECODE 2, and is forwarded once. -/
def execHawserAbortReceive (tackle gen crank _ecode : Nat) (s : State) : Host.Outcome State Fault Refusal :=
  .next (match s.tackles[tackle]? with
    | none => s
    | some x => if x.ceased || gen != x.gen then s else endGeneration s tackle crank 2)

/-! ### TKSTAT (R369) -/

/-- The status word TKSTAT returns for a ticket. -/
def tkStatus (x : Tackle) (ticket : Word) : DWord :=
  let seq := ticket.toNat % 65536
  let gen := ticket.toNat / 65536
  if gen ≠ x.gen % 65536 then statusWord 6 seq gen 0 0
  else if 64 ≤ (x.nextseq + 65536 - seq - 1) % 65536 then statusWord 5 seq gen 0 0
  else if (x.pending.any fun p => p.seq == seq && p.gen == x.gen) then statusWord 0 seq gen 0 0
  else (aget x.status seq).getD (statusWord 5 seq gen 0 0)

/-- TKSTAT returns a status: a final one is an acquire at device scope. It issued at clock `since`: its pair lands 2 clocks after,
or in the clock after its wait has ended (R131, R137; DESIGN CHOICE, log 122: unsafe, since no rule gives the clock of a pair whose
wait lasts longer). -/
def View.endTkstat (v : View) (sd len since : Nat) (w : DWord) : State :=
  let s := if w.toNat % 16 = 0 then v.s else acquireL1 v.s v.g.core .dev
  let f : Flight := { seq := s.nextSeq, issuedAt := since, landAt := max (since + 2) (s.clock + 1), s := pairS sd w.toNat }
  let st := { v.st with wait := none, flights := v.st.flights ++ [f] }
  (({ v with s := { s with nextSeq := s.nextSeq + 1 }, st } : View).advance len).put

/-- The needs of TKSTAT and TKSTAT.wait. -/
def needTkstat (sd a : Nat) (ticket : BSrc) : Need :=
  { port := .ctl, len := ticket.len, coll := true, noRegion := true, noRecompute := true,
    sregs := [sd, sd + 1, a, a + 1] ++ ticket.ss .b32 }

/-- TKSTAT and TKSTAT.wait. -/
def tkstatExec (h : Hd) (wait : Bool) (sd : SR) (a : Fin 256) (ticket : BSrc) : State → Host.Outcome State Fault Refusal :=
  onceExec h (needTkstat sd.val (2 * a.val) ticket) fun v =>
    match (tacklesAt v.s v.c.id (dieOf v.g.core) (readSS v.g (2 * a.val)).toNat).head? with
    | none => v.trapAt 0x18 ticket.len (v.st.acting h) 15 0
    | some (t, x) =>
      let w := tkStatus x (v.wordB ticket)
      if wait && w.toNat % 16 == 0 then (v.block (.tkstat sd.val t (v.wordB ticket)) ticket.len).put
      else v.endTkstat sd.val ticket.len v.s.clock w

/-- TKSTAT. -/
def execTkstat (h : Hd) (sd : SR) (a : Fin 256) (ticket : BSrc) : State → Host.Outcome State Fault Refusal :=
  tkstatExec h false sd a ticket

/-- TKSTAT.wait. -/
def execTkstatWait (h : Hd) (sd : SR) (a : Fin 256) (ticket : BSrc) : State → Host.Outcome State Fault Refusal :=
  tkstatExec h true sd a ticket

/-- TKSTAT_WAIT_COMPLETE: the collective waited for is no longer PENDING. -/
def execTkstatWaitComplete (gid j : Nat) (s : State) : Host.Outcome State Fault Refusal :=
  .next (match viewOf s gid j 0 0 with
    | none => s
    | some v => match v.st.wait with
      | some { kind := .tkstat sd t ticket, since, len } => match s.tackles[t]? with
        | some x =>
            let w := tkStatus x ticket
            if w.toNat % 16 = 0 || v.g.state != .resident then s else v.endTkstat sd len since w
        | none => s
      | _ => s)

/-! ### TKREFORM (R370) -/

/-- The rank a list gives this device and die. -/
def rankIn (x : Tackle) (l : List (Nat × Nat)) : Option Nat := l.findIdx? fun e => e == (x.device, x.die)

/-- The hash a REFORM carries. -/
def reformHash (nmem : Nat) (l : List (Nat × Nat)) : Nat := Config.listHash (nmem :: l.flatMap fun e => [e.1, e.2])

/-- The record in memory takes the new generation and list (R360). -/
def writeTackle (s : State) (c : Ctx) (x : Tackle) : State :=
  let s1 := sysWrite s c x.addr (leBytes 8 (x.tkid.toNat + x.gen % 65536 * 2 ^ 32 + x.nmem % 8192 * 2 ^ 48))
  x.entries.zipIdx.foldl (fun s e => sysWrite s c (x.addr + 64 + 8 * e.2) (leBytes 8 (e.1.1 + e.1.2 * 65536))) s1

/-- TKREFORM's effect: the generation ends, the new one begins, REFORM is sent, and the strand waits for every member's. -/
def reformIssue (v : View) (pd : PR) (t : Nat) (l : List (Nat × Nat)) (rank : Nat) : State :=
  let s0 := (v.waitAt (.tkreform pd t) 8).put
  let s1 := match s0.tackles[t]? with
    | some x => if !x.aborted && !x.pending.isEmpty then endGeneration s0 t x.rank 6 else s0
    | none => s0
  match s1.tackles[t]? with
  | none => s1
  | some x =>
    let gen := (x.gen + 1) % 65536
    let x1 := { x with gen, nmem := l.length, entries := l, rank, nextseq := 0, status := [], early := [], pending := x.pending.filter (fun p => p.fin.isSome),
                       reformSince := some s1.clock, forwarded := false,
                       arrived := (x.held.filter fun e => e.1 == gen).map fun e => (e.2.1, e.2.2.1),
                       held := x.held.filter fun e => e.1 != gen }
    let s2 := writeTackle (putTackle s1 t x1) v.c x1
    { s2 with outbox := s2.outbox ++ [.reform x.tkid gen rank (reformHash l.length l)] }

/-- The entries of a new list. -/
def listEntries (bs : List Byte) (n : Nat) : List (Nat × Nat) :=
  (List.range n).map fun r => let w := leNat ((bs.drop (8 * r)).take 8)
                              (bits w 15 0, bits w 18 16)

/-- The needs of TKREFORM. -/
def needTkreform (a m : Nat) (pd : PR) : Need :=
  { port := .ctl, len := 8, coll := true, sregs := [a, a + 1, m, m + 1], noRegion := true, noRecompute := true, drained := true,
    preds := [pd] }

/-- TKREFORM. -/
def execTkreform (h : Hd) (pd : PR) (a : Fin 256) (m : SR) : State → Host.Outcome State Fault Refusal :=
  let n := needTkreform (2 * a.val) m.val pd
  onceExec h n fun v =>
    let bad := v.trapAt 0x18 8 (v.st.acting h) 15 0
    let read := fun (off len : Nat) (k : List Byte → State) =>
      let l := (List.range len).map fun i => readSys v.s v.c .load (add64 (readSS v.g m.val).toNat (off + i)) 1
      match readFailure l with
      | some (.fail 43 _ _ va) => (v.waitAt (.page va) 8).put
      | some (.fail 44 _ _ va) => (v.waitAt (.record va) 8).put
      | some (.fail _ cause extra va) => v.trapAt cause 8 (v.st.acting h) extra va
      | some (.tile t va) => v.meetOrFault h n t va
      | _ => k (readAll l)
    match (tacklesAt v.s v.c.id (dieOf v.g.core) (readSS v.g (2 * a.val)).toNat).head? with
    | none => bad
    | some (t, x) => read 0 64 fun hdr =>
        let nmem := bits (leNat (hdr.take 8)) 60 48
        if nmem = 0 ∨ x.cap < nmem then bad
        else read 64 (8 * nmem) fun bs =>
          let l := listEntries bs nmem
          match rankIn x l with
          | none => bad
          | some rank => reformIssue v.settled pd t l rank

/-- TKREFORM_COMPLETE: every member's REFORM has arrived, or the interval has passed. A generation that has been aborted meanwhile
stays so. -/
def execTkreformComplete (gid j : Nat) (s : State) : Host.Outcome State Fault Refusal :=
  .next (match viewOf s gid j 0 0 with
    | none => s
    | some v => match v.st.wait with
      | some { kind := .tkreform pd t, since := _, len } => match s.tackles[t]? with
        | none => s
        | some x =>
          let hash := reformHash x.nmem x.entries
          let others := (List.range x.nmem).filter (· != x.rank)
          let all := others.all fun r => x.arrived.any fun e => e.1 == r
          let agree := others.all fun r => x.arrived.any fun e => e.1 == r && e.2 == hash
          let late := (x.reformSince.getD 0) + tkInterval v.c < s.clock
          if all || late then
            let ok := agree && !late && !x.forwarded
            let x1 := { x with reformSince := none, arrived := [], aborted := !ok, forwarded := false
                               crank := if ok then 0 else if x.forwarded then x.crank else x.rank
                               ecode := if ok then 0 else if x.forwarded then x.ecode else 6 }
            (({ v with s := putTackle s t x1, st := { v.st.setPredEm pd (!ok) with wait := none } } : View).advance len).put
          else s
      | _ => s)

/-- HAWSER_REFORM_RECEIVE: a REFORM of this generation counts; one of a later generation is held. -/
def execHawserReformReceive (tackle gen rank hash : Nat) (s : State) : Host.Outcome State Fault Refusal :=
  .next (match s.tackles[tackle]? with
    | none => s
    | some x =>
      if x.reformSince.isSome && gen == x.gen then
        putTackle s tackle { x with arrived := (x.arrived.filter fun e => e.1 != rank) ++ [(rank, hash)] }
      else
        let ahead := (gen + 65536 - x.gen) % 65536
        if 1 ≤ ahead ∧ ahead < 32768 then putTackle s tackle { x with held := x.held ++ [(gen, rank, hash, s.clock)] }
        else s)

/-- HELD_REFORM_EXPIRY: a held REFORM lasts one interval. -/
def execHeldReformExpiry (tackle : Nat) (s : State) : Host.Outcome State Fault Refusal :=
  .next (match (s.tackles[tackle]?).bind fun x => (getCtx s x.ctx).map fun c => (x, c) with
    | none => s
    | some (x, c) => putTackle s tackle { x with held := x.held.filter fun e => decide (s.clock ≤ e.2.2.2 + tkInterval c) })

/-! ### Links (R457, R459) -/

/-- HAWSER_LINK_FAIL: the port's retries have failed; its collectives end by their timers (R367, R368). -/
def execHawserLinkFail (port : Nat) (s : State) : Host.Outcome State Fault Refusal :=
  .next { s with hwlink := s.hwlink.setIfInBounds port 4 }

/-- HAWSER_LINK_TRAINED: the port is up. -/
def execHawserLinkTrained (port : Nat) (s : State) : Host.Outcome State Fault Refusal :=
  .next { s with hwlink := s.hwlink.setIfInBounds port 2 }

end Sys2Proof.Machine
end

