-- ==== Sys2Proof/Machine/Waits.lean ====
section
/-! DEFINITION. The steps by which strands go on: results land (R131, R137, R163), waits complete (R36, R379, R413, R419, R423,
R425), walks finish (R377), accesses are sent and performed (R302, R304), cleats settle (R422), traps are entered (R440),
and what errors do (R269 to R271). -/

namespace Sys2Proof.Machine

/-! ### Strand results (R131, R137, R163) -/

/-- Does flight f land before g: by the clock in which it lands, then that in which it issued, then the strand (R131)? -/
def Flight.before (f g : Flight) (i j : Nat) : Bool :=
  decide (f.landAt < g.landAt) || (f.landAt == g.landAt && (decide (f.issuedAt < g.issuedAt) ||
    (f.issuedAt == g.issuedAt && (decide (i < j) || (i == j && decide (f.seq < g.seq))))))

/-- The first of a strand's results that are due. -/
def Strand.due (st : Strand) (clock : Nat) : Option Flight :=
  st.flights.foldl (fun (b : Option Flight) f =>
    if clock < f.landAt then b
    else match b with
      | some x => if f.before x 0 0 then some f else b
      | none => some f) none

/-- The counts below threshold of a landed result: lane, element and count (R134). -/
def sigFailures (g : Group) (th : Nat) (k : SigCheck) : List (Nat × Nat × Nat) :=
  k.regs.flatMap fun r => (maskLanes k.lanes).flatMap fun i => ((List.range 8).filter fun e => tbit k.elems e).filterMap fun e =>
    let w := tileWord g r.1 r.2 i
    let code := if k.fmt = .f64 then w.1.toNat + (tileWord g r.1 (r.2 + 1) i).1.toNat * 2 ^ 32 else elemAt k.fmt w.1.toNat e
    let c := countGet k.fmt w.2 e code
    if c.2 && decide (c.1 < th) then some (i, e, c.1) else none

/-- The FMT code of a format (R79). -/
def fmtCode (f : Fmt) : Nat :=
  match f with
  | .f32 => 0 | .f16 => 1 | .bf16 => 2 | .m8 => 3 | .fp4 => 4 | .e4m3 => 5 | .e5m2 => 6 | .i32 => 7
  | .ui32 => 8 | .i16 => 9 | .i8 => 10 | .ui8 => 11 | .i4 => 12 | .f64 => 13 | .b32 => 14

/-- The SIGNIFICANCE check of a result that has landed (R163). -/
def View.checkResult (v : View) (k : SigCheck) : State :=
  match sigFailures v.g v.st.sigth.toNat k with
  | [] => v.put
  | f :: rest =>
    let l := f :: rest
    let elems := (List.range 8).foldl (fun m e => m + if l.any fun x => x.2.1 == e then 2 ^ e else 0) 0
    let least := rest.foldl (fun m x => min m x.2.2) f.2.2
    deferTrap v { cause := 0x0B, pc := k.pc, rpc := v.st.pc, lanes := maskOf fun i => l.any fun x => x.1 == i,
                       extra := BitVec.ofNat 32 (fmtCode k.fmt + elems * 2 ^ 4 + least * 2 ^ 12), long := longForm k.iw0,
                       iw0 := k.iw0, iw1 := if longForm k.iw0 then k.iw1 else 0, late := true } false

/-- A result lands: V words and tags, uniform registers, QSAT and QUND; then it is checked. -/
def View.landFlight (v : View) (f : Flight) : State :=
  let g := f.s.foldl (fun g w => g.writeS w.1 w.2) ((v.g.writeWords f.v).count f.qsat f.qund)
  let w : View := { v with g, st := { v.st with flights := v.st.flights.filter fun x => x.seq != f.seq } }
  match f.chk with
  | some k => w.checkResult k
  | none => w.put

/-- STRAND_RESULT_LAND. -/
def execStrandResultLand (gid j : Nat) (s : State) : Host.Outcome State Fault Refusal :=
  .next (match viewOf s gid j 0 0 with
    | none => s
    | some v => match v.st.due s.clock with
      | some f => v.landFlight f
      | none => s)

/-! ### Waits for a page, a map word or a tile -/

/-- Has what a strand waits for come, so that its instruction issues again (R266, R375, R385)? Inside a region every absent
page is waited for (R323), but not that of a fetch. -/
def View.thawed (v : View) (w : Wait) : Bool :=
  match w.kind with
  | .page va => match walk v.s v.c va with
    | .absent _ pgr => !pgr && !(v.st.active && w.len != 0)
    | _ => true
  | .mapWord h p => match checkHandle v.s v.c h with
    | .ok e => !absentWord (mapWordAt v.s v.c e p)
    | .error _ => true
  | .tile va => (tileUnready v.s v.c va).isNone || v.st.chainFault.isSome
  | .record va => pageThere v.s v.c va
  | _ => false

/-- The state with a strand that may issue again taken out of its wait; a RETIRE goes on with its tiles. -/
def wakeStrand (s : State) (gid j : Nat) : State :=
  match viewOf s gid j 0 0 with
  | none => s
  | some v => match v.st.wait with
    | none => s
    | some w =>
      if v.g.state != .resident then s
      else match w.kind with
        | .retire pd seq units => v.retire pd seq w.len units
        | k => if v.thawed w && !k.heldBack v.g then { v with st := { v.st with wait := none } }.put else s

/-! ### TAKE, CLWAIT and WAITP (R36, R419, R423) -/

/-- The Capstan's wait ends. -/
def CapView.unfreeze (v : CapView) : CapView := { v with k := { v.k with wait := none } }

/-- TAKE_COMPLETE. -/
def execTakeComplete (gid : Nat) (who : Option Nat) (s : State) : Host.Outcome State Fault Refusal :=
  .next (match who with
    | some j => match viewOf s gid j 0 0 with
      | none => s
      | some v => match v.st.wait with
        | some { kind := .take k, since := _, len } => match offerTo v.g v.j k with
          | some (t, since, upto) => if v.g.state == .resident && takeable s v.g t since then v.endTake k t upto len else s
          | none => s
        | _ => s
    | none => match capViewOf s gid with
      | none => s
      | some v => match v.k.wait with
        | some (.take t) => match v.takeNow t with
          | some (giver, upto) => if v.g.state == .resident then (v.endTake v.k.cpc t giver upto).put else s
          | none => s
        | _ => s)

/-- CLWAIT_COMPLETE. -/
def execClwaitComplete (gid : Nat) (who : Option Nat) (s : State) : Host.Outcome State Fault Refusal :=
  .next (match who with
    | some j => match viewOf s gid j 0 0 with
      | none => s
      | some v => match v.st.wait with
        | some { kind := .clwait gang pd c parity, since := _, len } => match clwaitState s v.g c parity with
          | some lost => if v.g.state == .resident then v.endClwait gang pd c lost len else s
          | none => s
        | _ => s
    | none => match capViewOf s gid with
      | none => s
      | some v => match v.k.wait with
        | some (.clwait gang c parity) => match clwaitState s v.g c parity with
          | some lost =>
              if v.g.state == .resident then
                let t := v.unfreeze.put
                if lost then t else clwaitAcquire t v.g.core c gang
              else s
          | none => s
        | _ => s)

/-- WAITP_COMPLETE. -/
def execWaitpComplete (gid : Nat) (who : Option Nat) (s : State) : Host.Outcome State Fault Refusal :=
  .next (match who with
    | some j => match viewOf s gid j 0 0 with
      | none => s
      | some v => match v.st.wait with
        | some { kind := .waitp path n, since := _, len } =>
            if v.g.state == .resident && decide (v.g.pathCount path ≤ n) then v.endWaitp path len else s
        | _ => s
    | none => match capViewOf s gid with
      | none => s
      | some v => match v.k.wait with
        | some (.waitp path n) =>
            if v.g.state == .resident && decide (v.g.pathCount path ≤ n) then waitpAcquire v.unfreeze.put v.g path else s
        | _ => s)

/-! ### BELAY, SCHED and TICK (R379, R413, R414) -/

/-- Do accesses of the context that have been translated still write a granule of a range? -/
def writesPending (s : State) (ctx base len : Nat) : Bool :=
  let hit := fun (e : Entry) => e.isSt && e.parts.any fun p => !p.done && (match p.place with
    | .home .. => overlaps p.addr p.len (granule base) (granule (base + len - 1) + 4096 - granule base)
    | _ => false)
  s.groups.any fun g => g.ctx == ctx && ((g.strands.any fun st => st.acc.any hit) || g.cap.any fun k => k.acc.any hit)

/-- BELAY_TAKE_EFFECT: every earlier write to the granules has been performed; Pd lands and the path counter falls. -/
def execBelayTakeEffect (gid j : Nat) (s : State) : Host.Outcome State Fault Refusal :=
  .next (match viewOf s gid j 0 0 with
    | none => s
    | some v => match v.st.wait with
      | some { kind := .belay pd seq base len, since := _, len := n } =>
          if len != 0 && writesPending s v.c.id base len then s
          else (({ v with g := v.g.pathLower 1 seq, st := { v.st.setPredEm pd false with wait := none } } : View).advance n).put
      | _ => s)

/-- SCHED_TAKE_EFFECT: every slice uses the new schedule, and Pd lands. -/
def execSchedTakeEffect (gid j : Nat) (s : State) : Host.Outcome State Fault Refusal :=
  .next (match viewOf s gid j 0 0 with
    | none => s
    | some v => match v.st.wait with
      | some { kind := .sched pd, since := _, len := n } =>
          (({ v with c := { v.c with schedL2 := v.c.sched }, st := { v.st.setPredEm pd false with wait := none } } : View).advance n).put
      | _ => s)

/-- STEP_PROPAGATE: the slices adopt STEP; they do so within 1,024 clocks of a TICK (R414). -/
def execStepPropagate (ctx : Nat) (s : State) : Host.Outcome State Fault Refusal :=
  .next (match getCtx s ctx with
    | some c => putCtx s { c with stepL2 := c.step }
    | none => s)

/-! ### Cleats and barriers (R422, R425) -/

/-- CLEAT_ARRIVAL: what has reached the cleat is applied; what reaches it later in the clock counts with it (R422). -/
def execCleatArrival (core cleat : Nat) (s : State) : Host.Outcome State Fault Refusal := .next (settleCleat s core cleat)

/-- Has a barrier's phase enough arrivals? -/
def Barrier.full (b : Barrier) (live : Nat) : Bool := b.arr != 0 && decide ((if b.exp = 0 then live else b.exp) ≤ b.arr)

/-- A strand when a phase of barrier b completes: one that waits there goes on, and each BAR that it left while it waited
remembers the phase (R446). -/
def Strand.released (st : Strand) (b : Nat) : Strand :=
  let here := fun (x : Nat × Bool × DWord) => x.1 == b && x.2.2 == st.pc
  let mark := fun (x : Nat × Bool × DWord) => if x.1 == b then (x.1, true, x.2.2) else x
  match st.wait with
  | some { kind := .bar n, since := _, len } =>
      if n = b then { st with barArrived := (st.barArrived.filter fun x => !here x).map mark, wait := none
                              pc := st.pc + BitVec.ofNat 64 len }
      else { st with barArrived := st.barArrived.map mark }
  | _ => { st with barArrived := st.barArrived.map mark }

/-- BAR_PHASE_COMPLETE: in the clock in which the phase is full (R425). -/
def execBarPhaseComplete (gid b : Nat) (s : State) : Host.Outcome State Fault Refusal :=
  .next (match getGroup s gid with
    | none => s
    | some g =>
      let x := g.barrier b
      if g.state == .resident && x.full g.liveStrands then
        putGroup s { g with barriers := g.barriers.setIfInBounds b { x with arr := 0, phase := !x.phase, doneAt := some s.clock }
                            strands := g.strands.map fun st => st.released b }
      else s)

/-! ### Memory (R257, R302, R304, R377) -/

/-- MEMORY_QUEUE_SEND. -/
def execMemoryQueueSend (ag : Agent) (store : Bool) (s : State) : Host.Outcome State Fault Refusal := .next (queueSend s ag store)

/-- MEMORY_ACCESS_PERFORM. -/
def execMemoryAccessPerform (ag : Agent) (seq part : Nat) (s : State) : Host.Outcome State Fault Refusal :=
  .next (performPart s ag seq part)

/-- L2_FILL: the line is brought in, or waits where no way may be chosen. -/
def execL2Fill (ctx : Option Nat) (va pa : Nat) (newStep newSched : Bool) (s : State) : Host.Outcome State Fault Refusal :=
  .next ((fillLine s ctx va pa newStep newSched).getD s)

/-- A TLB with an entry added; each class keeps its newest translations (R376). -/
def tlbAdd (l : List TlbEntry) (ctx page : Nat) (leaf : WalkResult) : List TlbEntry :=
  let big : TlbEntry → Bool := fun e => match e.leaf with
    | .leaf _ large _ _ _ _ _ => large
    | _ => false
  let large := match leaf with
    | .leaf _ l _ _ _ _ _ => l
    | _ => false
  let e : TlbEntry := { ctx, base := if large then page * 65536 / 2097152 * 2097152 else page * 65536, leaf }
  let same := l.filter fun x => big x == large && !(x.ctx == ctx && x.base == e.base)
  (l.filter fun x => big x != large) ++ (same ++ [e]).drop (same.length + 1 - if large then Config.tlbLarge else Config.tlbSmall)

/-- What a walk found is left for an agent that waits. -/
def leaveWalk (s : State) (page : Nat) (r : WalkResult) (ag : Agent) : State :=
  match getGroup s ag.gid with
  | none => s
  | some g => match ag with
    | .strand _ j => putGroup s { g with strands := updAt g.strands j fun st => { st with walked := aset st.walked page r } }
    | .capstan _ => putGroup s { g with cap := g.cap.map fun k => { k with walked := aset k.walked page r } }

/-- PAGE_WALK_COMPLETE: a leaf enters the TLB; anything else is left for the accesses that wait, which fault or wait. -/
def execPageWalkComplete (core ix : Nat) (s : State) : Host.Outcome State Fault Refusal :=
  .next (match (getCore s core).walks[ix]? with
    | none => s
    | some w =>
      let co := getCore s core
      let s1 := putCore s core { co with walks := co.walks.eraseIdx ix }
      match getCtx s1 w.ctx with
      | none => s1
      | some c => match walk s1 c (w.page * 65536) with
        | .leaf base large r wr x bly ten =>
            let co := getCore s1 core
            putCore s1 core { co with tlb := tlbAdd co.tlb w.ctx w.page (.leaf base large r wr x bly ten) }
        | .malformed r =>
            let unit := if 16 ≤ r then (aget s1.fresh ((r - 16) / 128 * 128)).getD 0 else 0
            w.waiters.foldl (fun s ag => leaveWalk s w.page (.malformed (r + unit)) ag) (if 16 ≤ r then meetPoison s1 (r - 16) else s1)
        | r => w.waiters.foldl (fun s ag => leaveWalk s w.page r ag) s1)

/-! ### Errors (R269 to R271) -/

/-- ECC_CORRECTABLE_ERROR. -/
def execEccCorrectableError (die : Nat) (s : State) : Host.Outcome State Fault Refusal :=
  .next { s with cecnt := s.cecnt.setIfInBounds die ((s.cecnt[die]?).getD 0 + 1) }

/-- A line enters the poison table; the access that finds the error reports the unit (R270, R272). -/
def poisonLine (s : State) (pa unit : Nat) : State :=
  let l := pa / 128 * 128
  if s.poison.contains l then s else { s with poison := s.poison ++ [l], fresh := s.fresh ++ [(l, unit)] }

/-- An uncorrectable error of the L2 line at a place in its list: a derived line drops its tile, a clean line is
discarded, a dirty one is poisoned and HBM4E keeps what it held. -/
def l2Error (s : State) (ix : Nat) : State :=
  match s.l2[ix]? with
  | none => s
  | some l => match l.tile, l.old with
    | some va, _ => dropTile s (l.ctx.getD 0) va
    | none, none => { s with l2 := s.l2.eraseIdx ix }
    | none, some bs => poisonLine { s with l2 := s.l2.eraseIdx ix, mem := writeBytes s.mem l.pa bs } l.pa 2

/-- ECC_UNCORRECTABLE_ERROR (R270, R271). -/
def execEccUncorrectableError (place : EccPlace) (s : State) : Host.Outcome State Fault Refusal :=
  let group := fun (gid : Nat) (f : Group → Group) => match getGroup s gid with
    | some g => putGroup s (f g)
    | none => s
  .next (match place with
    | .l1 core line => l1Drop s core (line / 128 * 128) 128
    | .l2 ix => l2Error s ix
    | .hbm pa => if (l2Line s pa).isSome then s else poisonLine s pa 1
    | .shared gid off => group gid fun g => { g with badShared := (off / 4 * 4) :: g.badShared.filter (· != off / 4 * 4) }
    | .tile gid t w => group gid fun g => { g with badWords := (t * 256 + w) :: g.badWords.filter (· != t * 256 + w) }
    | .slice gid e => group gid fun g => { g with badSlice := e :: g.badSlice.filter (· != e) }
    | .snapshot gid => group gid fun g =>
        if g.snaps.isEmpty then g else { g with cap := g.cap.map fun k => { k with poisonedSnap := true } })

/-! ### Traps (R440) -/

/-- STRAND_TRAP_ENTRY: a trap that waited for the strand's results to land is taken. -/
def execStrandTrapEntry (gid j : Nat) (s : State) : Host.Outcome State Fault Refusal :=
  .next (match viewOf s gid j 0 0 with
    | none => s
    | some v => match v.st.trap with
      | some t => if v.g.state == .resident && v.st.quiet then enterTrap s gid j t else s
      | none => s)

end Sys2Proof.Machine
end

