-- ==== Sys2Proof/Machine/Launch.lean ====
section
/-! DEFINITION. Launch records, LAUNCH and JOIN (R328, R334, R341 to R344, R435). -/

namespace Sys2Proof.Machine

/-! ### Launch records (R328, R334) -/

/-- Word n of a record. -/
def recWord (ws : List DWord) (n : Nat) : Nat := (ws.getD n 0).toNat

/-- STRANDS of role r. -/
def roleStrands (ws : List DWord) (r : Nat) : Nat := bits (recWord ws (1 + r)) 39 32
/-- TILES of role r. -/
def roleTiles (ws : List DWord) (r : Nat) : Nat := bits (recWord ws (1 + r)) 47 40
/-- ENTRY of role r. -/
def roleEntry (ws : List DWord) (r : Nat) : Nat := bits (recWord ws (1 + r)) 31 0

/-- The roles of a record's strands, in strand order, as numbers of roles (R21). -/
def strandRoles (ws : List DWord) : List Nat := (List.range 4).flatMap fun r => List.replicate (roleStrands ws r) r

/-- ARGSIZE -/
def recArgSize (ws : List DWord) : Nat := bits (recWord ws 6) 11 0
/-- Shared memory in bytes. -/
def recShared (ws : List DWord) : Nat := 4096 * bits (recWord ws 6) 18 12
/-- NGROUPS -/
def recGroups (ws : List DWord) : Nat := bits (recWord ws 7) 31 0
/-- GANGN -/
def recGang (ws : List DWord) : Nat := bits (recWord ws 7) 35 32
/-- CAPSTAN -/
def recCapstan (ws : List DWord) : Bool := tbit (recWord ws 8) 0
/-- SLICEN -/
def recSliceN (ws : List DWord) : Nat := bits (recWord ws 8) 10 1
/-- SLICEENT -/
def recSliceEnt (ws : List DWord) : Nat := bits (recWord ws 8) 19 11
/-- IRQ -/
def recIrq (ws : List DWord) : Bool := tbit (recWord ws 15) 0
/-- BARRIER -/
def recBarrier (ws : List DWord) : Bool := tbit (recWord ws 15) 1
/-- IRQVEC -/
def recVec (ws : List DWord) : Nat := bits (recWord ws 15) 13 8
/-- The dies a grid may use (R328). -/
def recDies (ws : List DWord) : List Nat :=
  let m := bits (recWord ws 15) 23 16
  (List.range 8).filter fun d => m == 0 || tbit m d

/-- The tiles that the strands of a partition need (R22). -/
def tilesIn (ws : List DWord) (p : Nat) : Nat :=
  (strandRoles ws).zipIdx.foldl (fun n x => if x.2 % 8 = p then n + roleTiles ws x.1 else n) 0

/-- The slice fields break R328. -/
def sliceBad (ws : List DWord) : Bool :=
  if recCapstan ws then recSliceN ws == 0 || decide (512 < recSliceN ws) || decide (recSliceN ws ≤ recSliceEnt ws) || recWord ws 9 % 64 != 0
  else recSliceN ws != 0 || recSliceEnt ws != 0 || recWord ws 9 != 0

/-- A bit that R328 does not list is set, a role not in use has an ENTRY or TILES, or a counter address is not a multiple of 8. -/
def reservedBad (ws : List DWord) : Bool :=
  let w := recWord ws
  ((List.range 4).any fun r => bits (w (1 + r)) 63 48 != 0 || (roleStrands ws r == 0 && (roleEntry ws r != 0 || roleTiles ws r != 0))) ||
  bits (w 6) 63 19 != 0 || bits (w 7) 63 36 != 0 || bits (w 8) 63 20 != 0 || tbit (w 11) 63 || tbit (w 13) 63 ||
  bits (w 15) 7 2 != 0 || bits (w 15) 15 14 != 0 || bits (w 15) 63 24 != 0 || w 10 % 8 != 0 || w 12 % 8 != 0 || w 14 % 8 != 0

/-- The lowest reason of R334, 1 to 8, that a record breaks. -/
def recordFault (ws : List DWord) : Option Nat :=
  let rs := List.range 4
  let used := fun r => roleStrands ws r != 0
  let base := recWord ws 0
  if !used 0 || (rs.any fun r => r != 0 && used r && !used (r - 1)) || (rs.any fun r => decide (32 < roleStrands ws r) || decide (32 < roleTiles ws r)) ||
      decide (32 < (strandRoles ws).length) then some 1
  else if (List.range 8).any fun p => decide (64 < tilesIn ws p) then some 2
  else if base % 8 != 0 || bits base 63 56 != 0 || rs.any fun r => used r && roleEntry ws r % 8 != 0 then some 3
  else if 2048 < recArgSize ws || recArgSize ws % 4 != 0 || recWord ws 5 % 4 != 0 then some 4
  else if 64 * 4096 < recShared ws then some 5
  else if recGroups ws = 0 || recGang ws = 0 || 12 < recGang ws || recGroups ws % recGang ws != 0 then some 6
  else if sliceBad ws then some 7
  else if reservedBad ws then some 8
  else none

/-- The sixteen words of a record's bytes. -/
def recordWords (bs : List Byte) : List DWord := (List.range 16).map fun n => BitVec.ofNat 64 (leNat ((bs.drop (8 * n)).take 8))

/-- A record's bytes. -/
def recordBytes16 (ws : List DWord) : List Byte := (List.range 16).flatMap fun n => leBytes 8 (recWord ws n)

/-! ### The spill list (R341, R342, R435) -/

/-- SPILLHEAD and SPILLTAIL. -/
def spillPtrs (s : State) (c : Ctx) : Nat × Nat := (sysNat s c (c.trapvec + 0x20) 4, sysNat s c (c.trapvec + 0x24) 4)

/-- SPILLCAP -/
def spillCap (s : State) (c : Ctx) : Nat := sysNat s c (c.trapvec + 0x18) 4

/-- May a LAUNCH spill: are there more free entries than 4 for each group of the context whose pending queue is not empty? -/
def spillRoom (s : State) (c : Ctx) : Bool :=
  let p := spillPtrs s c
  let used := (p.2 + 2 ^ 32 - p.1) % 2 ^ 32
  let groups := (s.groups.filter fun g => g.ctx == c.id && !g.pendingL.isEmpty).length
  decide (4 * groups + used < spillCap s c)

/-- A record is appended to the spill list. -/
def spillAppend (s : State) (c : Ctx) (ws : List DWord) : State :=
  let tail := (spillPtrs s c).2
  let at_ := sysNat s c (c.trapvec + 0x10) 8 + tail % max 1 (spillCap s c) * 128
  sysWrite (sysWrite s c at_ (recordBytes16 ws)) c (c.trapvec + 0x24) (leBytes 4 ((tail + 1) % 2 ^ 32))

/-- The head of the spill list goes to the distributor. -/
def spillPop (s : State) (c : Ctx) : State :=
  sysWrite s c (c.trapvec + 0x20) (leBytes 4 (((spillPtrs s c).1 + 1) % 2 ^ 32))

/-- A group's pending entries go to the spill list in queue order, and its launch counter falls (R342). -/
def spillPending (s : State) (gid : Nat) : State :=
  match getGroup s gid with
  | none => s
  | some g => match getCtx s g.ctx with
    | none => s
    | some c => g.pendingL.foldl (fun s p => match getGrid s p.grid with
        | none => s
        | some x =>
          let s1 := spillAppend s c x.words
          let s2 := { s1 with grids := (s1.grids.filter fun y => y.id != x.id) ++ [{ x with origin := .spill }] }
          lowerPath s2 gid 7 p.seq) (putGroup s { g with pendingL := [] })

/-! ### LAUNCH (R343) -/

/-- What a LAUNCH that may go on finds at issue: its record's words. -/
inductive LaunchRead
  | record (ws : List DWord)
  | stop (s : State)

/-- The record read and checked (R251, R334). -/
def launchRead (v : View) (h : Hd) (n : Need) (addr : Nat) : LaunchRead :=
  match readSys v.s v.c .load addr 128 with
  | .fail 43 _ _ va => .stop (v.waitAt (.page va) n.len).put
  | .fail 44 _ _ va => .stop (v.waitAt (.record va) n.len).put
  | .fail _ cause extra va => .stop (v.settled.trapAt cause n.len (v.st.acting h) extra va)
  | .tile t va => .stop (v.meetOrFault h n t va)
  | .bytes bs =>
      let ws := recordWords bs
      match recordFault ws with
      | some r => .stop (v.settled.trapAt 0x18 n.len (v.st.acting h) (BitVec.ofNat 32 r) 0)
      | none => if 4 ≤ v.g.pendingL.length && !spillRoom v.s v.c then .stop (v.settled.trapAt 0x18 n.len (v.st.acting h) 9 0) else .record ws

/-- The needs of LAUNCH. -/
def needLaunch (a : Nat) (pd : PR) : Need :=
  { port := .ctl, len := 8, sregs := [a, a + 1], path := some 7, noRegion := true, noRecompute := true, drained := true,
    preds := [pd] }

/-- LAUNCH: it raises the launch counter and waits until its record has been accepted. -/
def execLaunch (h : Hd) (pd : PR) (a : Fin 256) : State → Host.Outcome State Fault Refusal :=
  let n := needLaunch (2 * a.val) pd
  onceExec h n fun v =>
    let addr := (readSS v.g (2 * a.val)).toNat
    if addr % 128 ≠ 0 then v.trapAt 0x06 n.len (v.st.acting h) 0 addr
    else match launchRead v h n addr with
      | .stop t => t
      | .record _ =>
          let seq := v.s.nextSeq
          (({ v with s := { v.s with nextSeq := seq + 1 }, g := v.g.pathRaise 7 seq } : View).waitAt (.launch pd addr seq) n.len).put

/-- A grid made from a record. -/
def newGrid (id ctx : Nat) (origin : Origin) (ws : List DWord) (gridid prio : Nat) (step : DWord) : Grid :=
  { id, ctx, origin, words := ws, gridid, prio, step }

/-- The accepted record of a LAUNCH: it enters the pending queue, or the spill list (R341, R343). -/
def View.accept (v : View) (pd : PR) (seq len : Nat) (ws : List DWord) : State :=
  let id := v.s.nextSeq
  let prio := ((getGrid v.s v.g.grid).map (·.prio)).getD 0
  let spill := decide (4 ≤ v.g.pendingL.length)
  let x := newGrid id v.c.id (if spill then .spill else .pendingQueue v.g.gid) ws (v.c.launchSeq % 2 ^ 32) prio v.c.step
  let s := { v.s with nextSeq := id + 1, grids := v.s.grids ++ [x] }
  let g0 := { v.g with acceptedAt := some v.s.clock }
  let g := if spill then g0.pathLower 7 seq else { g0 with pendingL := v.g.pendingL ++ [{ grid := id, seq }] }
  let w : View := { v with s, g, c := { v.c with launchSeq := v.c.launchSeq + 1 }, st := { v.st.setPredEm pd spill with wait := none } }
  if spill then spillAppend (w.advance len).put v.c ws else (w.advance len).put

/-- Does a strand of a lower index wait with a LAUNCH that issued in the same clock? Its record enters first (R341). -/
def View.launchBehind (v : View) (since : Nat) : Bool :=
  (v.g.strands.take v.j).any fun st => st.wait.any fun w => w.since == since && match w.kind with
    | .launch .. => true
    | _ => false

/-- LAUNCH_ACCEPT: the record's read completes, at least 40 clocks after the LAUNCH issued. A record that cannot be
accepted any more makes the LAUNCH issue again, which raises the fault. -/
def execLaunchAccept (gid j : Nat) (s : State) : Host.Outcome State Fault Refusal :=
  .next (match viewOf s gid j 0 0 with
    | none => s
    | some v => match v.st.wait with
      | some { kind := .launch pd addr seq, since, len } =>
        if s.clock < since + 40 || v.launchBehind since then s
        else
          let again := { v with g := v.g.pathLower 7 seq, st := { v.st with wait := none } }.put
          match readSys s v.c .load addr 128 with
          | .bytes bs =>
              let ws := recordWords bs
              if (recordFault ws).isSome || (decide (4 ≤ v.g.pendingL.length) && !spillRoom s v.c) then again else v.accept pd seq len ws
          | _ => again
      | _ => s)

/-! ### JOIN (R344) -/

/-- A JOIN's value: a pair of uniform registers, or an immediate zero-extended. -/
def View.joinValue (v : View) (x : BSrc) : Nat :=
  match x with
  | .s n => (readSS v.g n.val).toNat
  | _ => (v.wordB x).toNat

/-- A completion counter meets a value: bits 62:0 (R329). -/
def counterMet (w v : Nat) : Bool := decide (v % 2 ^ 63 ≤ w % 2 ^ 63)

/-- A JOIN completes with the counter's word. -/
def View.endJoin (v : View) (pd : PR) (w len : Nat) : State :=
  (({ v with s := acquireL1 v.s v.g.core .dev, st := { v.st.setPredEm pd (tbit w 63) with wait := none } } : View).advance len).put

/-- JOIN. -/
def execJoin (h : Hd) (pd : PR) (a : Fin 256) (x : BSrc) : State → Host.Outcome State Fault Refusal :=
  let n : Need := { port := .ctl, len := x.len, noRegion := true, noRecompute := true,
                    sregs := [2 * a.val, 2 * a.val + 1] ++ x.ss .f64, preds := [pd] }
  onceExec h n fun v =>
    let addr := (readSS v.g (2 * a.val)).toNat
    let val := v.joinValue x
    if addr % 8 ≠ 0 then v.trapAt 0x06 n.len (v.st.acting h) 0 addr
    else match readSys v.s v.c .load addr 8 with
      | .fail 43 _ _ va => (v.yielding.waitAt (.page va) n.len).put
      | .fail 44 _ _ va => (v.yielding.waitAt (.record va) n.len).put
      | .fail _ cause extra va => v.settled.trapAt cause n.len (v.st.acting h) extra va
      | .tile t va => v.yielding.meetOrFault h n t va
      | .bytes bs => if counterMet (leNat bs) val then v.settled.endJoin pd (leNat bs) n.len
                     else (v.block (.join pd addr val) n.len).put

/-- JOIN_COMPLETE: the counter meets the value. A counter that can no longer be read makes the JOIN issue again. -/
def execJoinComplete (gid j : Nat) (s : State) : Host.Outcome State Fault Refusal :=
  .next (match viewOf s gid j 0 0 with
    | none => s
    | some v => match v.st.wait with
      | some { kind := .join pd addr val, since := _, len } =>
        if v.g.state == .resident then
          match readSys s v.c .load addr 8 with
          | .bytes bs => if counterMet (leNat bs) val then v.endJoin pd (leNat bs) len else s
          | _ => { v with st := { v.st with wait := none } }.put
        else s
      | _ => s)

end Sys2Proof.Machine
end

