-- ==== Sys2Proof/Machine/Place.lean ====
section
/-! DEFINITION. Placement (R22 to R29, R41, R43, R190, R336 to R339, R401 to R403): where a gang fits, reservations, how a
group starts and how a saved one is restored (R449). -/

namespace Sys2Proof.Machine

/-! ### What a core holds (R13, R22, R23, R28) -/

/-- Cores of a die (R12). -/
def State.cpd (s : State) : Nat := if s.variant = .y2s then 96 else 128

/-- Gang rings of a die pair (R28). -/
def State.rings (s : State) : Nat := if s.variant = .y2s then 12 else 16

/-- The groups that hold a core. -/
def coreGroups (s : State) (core : Nat) : List Group := s.groups.filter fun g => g.core == core && g.state != .saved

/-- The strand slots in use. -/
def slotsUsed (gs : List Group) : List Nat := gs.flatMap fun g => g.strands.map fun st => st.slot

/-- The tiles in use. -/
def tilesUsed (gs : List Group) : List Nat := gs.flatMap fun g => (g.owner.filter fun e => e.2 != .free).map (·.1)

/-- The core at position p of a ring of a die pair (R28). -/
def ringCore (pair ring p : Nat) : Nat := if p < 8 then 2 * pair * 128 + 8 * ring + p else (2 * pair + 1) * 128 + 8 * ring + (p - 8)

/-- The die pair, ring and position of a core. -/
def ringOf (core : Nat) : Nat × Nat × Nat := (core / 128 / 2, core % 128 / 8, core % 8 + 8 * (core / 128 % 2))

/-- What a group asks of a core: its strands, the tiles of each partition, or for a saved group its tile and cleat numbers,
and its shared memory. -/
structure Demand where
  strands : Nat
  tiles : List Nat := []
  fixed : List Nat := []
  cleats : List Nat := []
  shared : Nat
  cap : Bool
  deriving DecidableEq, Repr

/-- A new group's demand. -/
def demandOf (ws : List DWord) : Demand :=
  { strands := (strandRoles ws).length, tiles := (List.range 8).map (tilesIn ws), shared := recShared ws, cap := recCapstan ws }

/-- A saved group's demand (R40, R421, R449). -/
def Group.demand (g : Group) : Demand :=
  { strands := g.strands.length, fixed := tilesUsed [g], cleats := g.savedCleats.map (·.1), shared := g.shbytes, cap := g.capBound }

/-- Is a core one of the RSV highest-numbered ones of a home die that no other context holds (R402)? -/
def keptFor (s : State) (c : Ctx) (core : Nat) : Bool :=
  let d := core / 128
  (c.regions.any fun r => r.die == d) && (s.groups.any fun g => g.ctx == c.id && g.state != .saved) &&
  ((((List.range s.cpd).reverse.map fun k => d * 128 + k).filter fun n => !(coreGroups s n).any fun g => g.ctx != c.id).take
    (c.rcpcores.toNat % 256)).contains core

/-- May a group of a context be placed on a core, as far as reserved cores go (R402)? -/
def coreOpen (s : State) (ctx : Nat) (recompute : Bool) (core : Nat) : Bool :=
  s.ctxs.all fun c => !keptFor s c core || (recompute && c.id == ctx)

/-- A group fits on a core (R22, R23). -/
def coreFits (s : State) (ctx : Nat) (recompute : Bool) (d : Demand) (core : Nat) : Bool :=
  let gs := coreGroups s core
  let slots := slotsUsed gs
  let tiles := tilesUsed gs
  let co := getCore s core
  (if d.cap then gs.isEmpty else !gs.any fun g => g.capBound) && decide (gs.length < 16) &&
  decide (gs.foldl (fun n g => n + g.shbytes) 0 + d.shared ≤ 262144) &&
  ((List.range 8).all fun p =>
    decide ((slots.filter fun x => x / 8 == p).length + (d.strands + 7 - p) / 8 ≤ 8) &&
    decide ((tiles.filter fun t => t / 64 == p).length + d.tiles.getD p 0 ≤ 64)) &&
  (d.fixed.all fun t => !tiles.contains t) && (d.cleats.all fun c => (co.cleat c).owner.isNone) &&
  coreOpen s ctx recompute core

/-! ### Where a gang fits (R337) -/

/-- Is a position reserved for another gang (R339)? -/
def heldFor (s : State) (grid gangix core : Nat) : Bool :=
  let r := ringOf core
  s.reservations.any fun x => !(x.grid == grid && x.gangix == gangix) && x.pair == r.1 && x.ring == r.2.1 && x.got.contains r.2.2

/-- What is to be placed: a gang of a grid, new or saved. A position whose group has ended asks for nothing. -/
structure Want where
  grid : Nat
  gangix : Nat
  ctx : Nat
  dies : List Nat
  recompute : Bool := false
  need : List (Option Demand)
  deriving DecidableEq, Repr

/-- Does group k of a gang fit at a core? -/
def Want.at_ (w : Want) (s : State) (k core : Nat) : Bool :=
  match w.need[k]? with
  | some d => w.dies.contains (core / 128) && decide (core % 128 < s.cpd) && !heldFor s w.grid w.gangix core &&
      d.all fun d => coreFits s w.ctx w.recompute d core
  | none => false

/-- The cores of n consecutive positions. -/
def ringRun (pair ring start n : Nat) : List Nat := (List.range n).map fun k => ringCore pair ring ((start + k) % 16)

/-- Do the groups of a gang fit on a list of cores? -/
def Want.fits (w : Want) (s : State) (cores : List Nat) : Bool := cores.zipIdx.all fun e => w.at_ s e.2 e.1

/-- The number after the one used last; 0 where none has been used: DESIGN CHOICE (log 18), since R337 gives no start. -/
def after (last : Option Nat) : Nat := match last with
  | some n => n + 1
  | none => 0

/-- The cores in the order in which a gang of one is tried: from the die after the last, within a die from the core after its
last. -/
def singleOrder (s : State) : List Nat :=
  (List.range 8).flatMap fun k =>
    let d := (after s.lastDie + k) % 8
    (List.range s.cpd).map fun j => d * 128 + (after ((s.lastCore[d]?).getD none) + j) % s.cpd

/-- The cores for a recompute group: its context's reserved ones first, then the rest of the home die (R403). -/
def recomputeOrder (s : State) (w : Want) : List Nat :=
  let all := w.dies.flatMap fun d => (List.range s.cpd).map fun k => d * 128 + k
  let kept := all.filter fun n => (getCtx s w.ctx).any fun c => keptFor s c n
  kept ++ all.filter fun n => !kept.contains n

/-- Every start position, by pair, ring and start. -/
def ringStarts (s : State) : List (Nat × Nat × Nat) :=
  (List.range 4).flatMap fun k => (List.range s.rings).flatMap fun r => (List.range 16).map fun p => (k, r, p)

/-- The gang's own reservation. -/
def ownReservation (s : State) (w : Want) : Option Reservation :=
  s.reservations.find? fun r => r.grid == w.grid && r.gangix == w.gangix

/-- The cores on which a gang is placed, if it fits. -/
def findCores (s : State) (w : Want) : Option (List Nat) :=
  match ownReservation s w with
  | some r =>
      let l := ringRun r.pair r.ring r.start r.n
      if (l.all fun n => (coreGroups s n).isEmpty && r.got.contains (ringOf n).2.2) && w.fits s l then some l else none
  | none =>
    if w.recompute then ((recomputeOrder s w).find? fun n => w.at_ s 0 n).map fun n => [n]
    else if w.need.length = 1 then ((singleOrder s).find? fun n => w.at_ s 0 n).map fun n => [n]
    else ((ringStarts s).find? fun e => w.fits s (ringRun e.1 e.2.1 e.2.2 w.need.length)).map fun e =>
      ringRun e.1 e.2.1 e.2.2 w.need.length

/-! ### Reservations (R339) -/

/-- A position is free: no group holds its core. -/
def posFree (s : State) (pair ring p : Nat) : Bool := (coreGroups s (ringCore pair ring p)).isEmpty

/-- Reservations take the positions that have become free. -/
def growReservations (s : State) : State :=
  { s with reservations := s.reservations.map fun r =>
      { r with got := ((List.range r.n).map fun k => (r.start + k) % 16).filter fun p => r.got.contains p || posFree s r.pair r.ring p } }

/-- The runs of positions on dies that a gang may use. -/
def ownRuns (s : State) (w : Want) : List (Nat × Nat × Nat) :=
  (ringStarts s).filter fun e => (ringRun e.1 e.2.1 e.2.2 w.need.length).all fun core => w.dies.contains (core / 128)

/-- May a gang take a reservation now: it holds none, and no other gang holds one in a die pair that it may use? -/
def mayReserve (s : State) (w : Want) : Bool :=
  !w.recompute && (ownReservation s w).isNone && !(s.reservations.any fun r => w.dies.any fun d => d / 2 == r.pair) && !(ownRuns s w).isEmpty

/-- A gang that has waited GANGAGE passes reserves the run with the most free positions, where no other gang holds a
reservation in a die pair that it may use. -/
def reserve (s : State) (w : Want) : State :=
  let n := w.need.length
  if !mayReserve s w then s
  else
    let free := fun (e : Nat × Nat × Nat) => ((List.range n).filter fun k => posFree s e.1 e.2.1 ((e.2.2 + k) % 16)).length
    match ownRuns s w with
    | [] => s
    | e :: es =>
      let b := es.foldl (fun b x => if free b < free x then x else b) e
      growReservations { s with reservations := s.reservations ++
        [{ grid := w.grid, gangix := w.gangix, pair := b.1, ring := b.2.1, start := b.2.2, n }] }

/-- A placed gang's reservation ends, and the search of R337 remembers the core of a gang of one. -/
def notePlaced (s : State) (w : Want) (cores : List Nat) : State :=
  let s1 := { s with reservations := s.reservations.filter fun r => !(r.grid == w.grid && r.gangix == w.gangix) }
  match cores with
  | [n] => if w.recompute then s1 else { s1 with lastDie := some (n / 128), lastCore := s1.lastCore.setIfInBounds (n / 128) (some (n % 128)) }
  | _ => s1

/-! ### Group start (R21 to R25, R41, R43, R190, R401) -/

/-- The free slots of a partition in order. -/
def freeSlots (gs : List Group) (p : Nat) : List Nat := ((List.range 8).map fun k => 8 * p + k).filter fun x => !(slotsUsed gs).contains x

/-- The slot of strand j (R22). -/
def slotOf (gs : List Group) (j : Nat) : Nat := (freeSlots gs (j % 8)).getD (j / 8) 0

/-- Tiles that the earlier strands of strand j's partition take. -/
def tilesBefore (ws : List DWord) (j : Nat) : Nat :=
  (strandRoles ws).zipIdx.foldl (fun n x => if x.2 < j && x.2 % 8 = j % 8 then n + roleTiles ws x.1 else n) 0

/-- The tiles of strand j, in the order of its slots (R24, R25). -/
def strandTiles (gs : List Group) (ws : List DWord) (role j : Nat) : List Nat :=
  let p := j % 8
  let k := roleTiles ws role
  let b := tilesBefore ws j
  if recCapstan ws then (List.range k).map fun n => 64 * p + (64 - b - k) + n
  else ((((List.range 64).map fun n => 64 * p + n).filter fun t => !(tilesUsed gs).contains t).drop b).take k

/-- A strand at group start (R41). -/
def startStrand (gs : List Group) (ws : List DWord) (role j : Nat) : Strand :=
  let ts := strandTiles gs ws role j
  { role, slot := slotOf gs j, pc := BitVec.ofNat 64 (recWord ws 0 + roleEntry ws role)
    q := Vector.ofFn fun k => match ts[k.val]? with
      | some t => BitVec.ofNat 16 (0x8000 + t)
      | none => 0
    gen := seedUnit 0 j }

/-- The owner words at group start. -/
def startOwners (gs : List Group) (ws : List DWord) : List (Nat × Owner) :=
  let mine := (strandRoles ws).zipIdx.flatMap fun x => (strandTiles gs ws x.1 x.2).zipIdx.map fun t => (t.1, Owner.strand x.2 t.2)
  mine ++ if recCapstan ws then ((List.range 512).filter fun t => !mine.any fun e => e.1 == t).map fun t => (t, Owner.capstan) else []

/-- The four bytes of a word, one for each role. -/
def roleBytes (f : Nat → Nat) : Nat := f 0 + f 1 * 2 ^ 8 + f 2 * 2 ^ 16 + f 3 * 2 ^ 24

/-- The launch identity, S1008 to S1023 (R43). -/
def identity (x : Grid) (tenant groupix pos core : Nat) : List (Nat × Nat) :=
  let ws := x.words
  let n := recGang ws
  let r := ringOf core
  let used := fun k => roleStrands ws k != 0
  let base := fun k => ((List.range k).foldl (fun m i => m + roleStrands ws i) 0) % 256
  let q := match x.origin with
    | .host _ q => q
    | _ => 0
  let o := match x.origin with
    | .host .. => 0
    | .recompute _ => 2
    | _ => 1
  [(1008, x.gridid), (1009, groupix), (1010, groupix / max 1 n), (1011, pos + n * 2 ^ 8),
   (1012, core / 128 + core % 128 * 2 ^ 3 + r.2.1 * 2 ^ 10 + r.2.2 * 2 ^ 14), (1013, tenant + q * 2 ^ 4 + o * 2 ^ 7),
   (1014, roleBytes fun k => if used k then base k else 0xFF), (1015, roleBytes fun k => roleStrands ws k),
   (1016, roleBytes fun k => roleTiles ws k), (1017, recGroups ws), (1018, half false x.step.toNat), (1019, half true x.step.toNat),
   (1020, recArgSize ws), (1021, recShared ws), (1022, core)]

/-- The uniform registers at group start: the argument block, or a recompute group's record, address and depth; then the launch
identity. -/
def startRegs (x : Grid) (tenant groupix pos core : Nat) : List (Nat × Word) :=
  let args := (List.range ((x.args.length + 3) / 4)).map fun n => (n, leNat ((x.args.drop (4 * n)).take 4))
  (args ++ identity x tenant groupix pos core).foldl (fun t e => tset 0 t e.1 (BitVec.ofNat 32 e.2)) []

/-- The address that A1 holds at group start. -/
def startAddr (s : State) (x : Grid) : Nat :=
  match x.origin with
  | .recompute key => ((buildByKey s key).map (·.va)).getD 0
  | _ => recWord x.words 5

/-- A Capstan at group start (R41, R189, R190). -/
def startCap (s : State) (x : Grid) : Capstan :=
  { a := (Vector.replicate 64 (0 : DWord)).set 1 (BitVec.ofNat 64 (startAddr s x))
    cpc := slicePc (recSliceEnt x.words), slice := writeBytes [] 0 x.image, gen := seedUnit 0 32 }

/-- A context switch empties a core's TLB (R371). -/
def emptyTlb (s : State) (core : Nat) : State := putCore s core { getCore s core with tlb := [] }

/-- A core is made ready for a group of a context: where no other group of the context is on it, its L1 and its TLB hold
nothing; a Capstan-bound group finds every cleat unarmed. -/
def readyCore (s : State) (ctx core : Nat) (cap : Bool) : State :=
  let s1 := if (coreGroups s core).any fun g => g.ctx == ctx then s else emptyTlb (l1Clear s core) core
  if cap then
    let s2 := dropArrivals s1 core fun _ => true
    putCore s2 core { getCore s2 core with cleats := [] }
  else s1

/-- The context's slice begins with its first resident group (R340). -/
def beginSlice (s : State) (ctx : Nat) : State :=
  match getCtx s ctx with
  | some c => if c.sliceStart.isNone then putCtx s { c with sliceStart := some s.clock } else s
  | none => s

/-- A group starts on a core. -/
def startGroup (s : State) (x : Grid) (c : Ctx) (pos core : Nat) : State :=
  let ws := x.words
  let n := recGang ws
  let gs := coreGroups s core
  let groupix := x.nextGang * n + pos
  let cap := recCapstan ws
  let build := match x.origin with
    | .recompute key => some key
    | _ => none
  let g : Group :=
    { gid := s.nextGid, ctx := c.id, grid := x.id, core, groupix, gangix := x.nextGang, gangpos := pos, gangsize := n, capBound := cap
      strands := (strandRoles ws).zipIdx.map fun r => startStrand gs ws r.1 r.2
      sregs := startRegs x c.tenant groupix pos core, shbytes := recShared ws, owner := startOwners gs ws
      cap := if cap then some (startCap s x) else none, placedAt := s.clock, build }
  let s1 := readyCore s c.id core cap
  beginSlice { s1 with nextGid := s1.nextGid + 1, groups := s1.groups ++ [g]
                       builds := s1.builds.map fun b => if some b.key = build then { b with gid := some g.gid } else b } c.id

/-- The next gang of a grid is placed on cores, one for each position. -/
def placeGang (s : State) (x : Grid) (c : Ctx) (w : Want) (cores : List Nat) : State :=
  let s1 := notePlaced (cores.zipIdx.foldl (fun s e => startGroup s x c e.2 e.1) s) w cores
  let n := x.nextGang + 1
  putGrid s1 { x with nextGang := n, age := 0, state := if n * recGang x.words = recGroups x.words then .placed else .placing }

/-! ### Resumption (R345, R356, R421, R449) -/

/-- A strand as it resumes: an unfinished wait issues again. -/
def Strand.resumed (st : Strand) (slot clock : Nat) : Strand :=
  { st with slot, handler := st.handler.map fun h => { h with bkpt := false }, wait := if st.wait.all (fun w => w.kind.leaves) then none else st.wait, walked := [], readyAt := clock }

/-- A saved group is restored on a core: cleats, queued copies, and its Capstan at the slot where it waited. -/
def restoreGroup (s : State) (g : Group) (core : Nat) : State :=
  let gs := coreGroups s core
  let s0 := readyCore s g.ctx core g.capBound
  let here := (getCore s0 core).cleats.filter fun e => g.savedCleats.any fun x => x.1 == e.1
  let s1 := emptyTlb (l1Clear (if here.isEmpty then s0 else loseArrivals s0 core (here.flatMap fun e => e.2.arrivals)) core) core
  let co := getCore s1 core
  let co1 := g.savedCleats.foldl (fun co e => co.putCleat e.1 e.2) co
  let chan := fun ch => co1.chan ch ++ (g.savedCopies.filter fun e => e.1 == ch).map (·.2)
  let thaw := fun (k : Capstan) => { k with pageWait := none, walked := [], readyAt := s.clock }
  let g1 := { g with state := .resident, core, savedCleats := [], savedCopies := [], future := .none, ready := none, placedAt := s.clock
                     strands := g.strands.mapIdx fun j st => st.resumed (slotOf gs j) s.clock
                     cap := g.cap.map thaw, preempted := false, age := 0, convTry := none, stopReq := none }
  beginSlice (putGroup (putCore s1 core ((co1.putChan 0 (chan 0)).putChan 1 (chan 1))) g1) g.ctx

/-- The groups of a saved gang, by position. -/
def gangOf (s : State) (g : Group) : List Group :=
  (List.range g.gangsize).filterMap fun p => s.groups.find? fun x => sameGang x g && x.gangpos == p

/-- The positions of a gang: those whose group has ended are empty. -/
def gangSlots (s : State) (g : Group) : List (Option Group) :=
  (List.range g.gangsize).map fun p => s.groups.find? fun x => sameGang x g && x.gangpos == p

/-- A saved gang is placed on cores. -/
def resumeGang (s : State) (l : List (Option Group)) (w : Want) (cores : List Nat) : State :=
  let one := fun (s : State) (e : Option Group × Nat) => match e.1 with
    | some g => restoreGroup s g e.2
    | none => s
  notePlaced ((l.zip cores).foldl one s) w cores

/-! ### The order of work (R336) -/

/-- Work ready to place. -/
inductive Work
  | grid (x : Grid)
  | gang (g : Group)
  deriving DecidableEq, Repr

/-- A saved gang is ready once every future in it has come; the clock from which it has been. -/
def gangReady (s : State) (g : Group) : Option Nat :=
  (gangOf s g).foldl (fun r x => match r, x.ready with
    | some a, some b => some (max a b)
    | _, _ => none) (some 0)

/-- A list ordered by a key, earlier entries first on equal keys. -/
def insertBy {α : Type} (f : α → Nat) (x : α) : List α → List α
  | [] => [x]
  | y :: ys => if f x < f y then x :: y :: ys else y :: insertBy f x ys

/-- A list sorted by a key. -/
def sortBy {α : Type} (f : α → Nat) (l : List α) : List α := l.foldl (fun r x => insertBy f x r) []

/-- The class of a grid under R336: 1 recompute groups, 3 pending-launch queues, 4 spill lists, 5 host queues. -/
def Grid.cls (x : Grid) : Nat :=
  match x.origin with
  | .recompute _ => 1
  | .pendingQueue _ => 3
  | .spill => 4
  | .host .. => 5

/-- A host queue's place in the round after the one served last. -/
def Grid.turn (x : Grid) (last : Nat) : Nat :=
  match x.origin with
  | .host t q => (8 * t + q + 128 - (last + 1) % 128) % 128
  | .pendingQueue _ => x.id
  | _ => 0

/-- The priority of a group: its grid's. -/
def groupPrio (s : State) (g : Group) : Nat := ((getGrid s g.grid).map (·.prio)).getD 0

/-- The grids being placed, in the order of R336 within a priority. -/
def placingGrids (s : State) (prio cls : Nat) : List Grid :=
  sortBy (fun x => x.turn s.lastQueue) (s.grids.filter fun x => x.state == .placing && x.prio == prio && x.cls == cls)

/-- The saved gangs that are ready, in the order in which they became so: those that a pre-emption stopped, or the others. -/
def readyGangs (s : State) (prio : Nat) (preempted : Bool) : List Group :=
  sortBy (fun g => (gangReady s g).getD 0)
    (s.groups.filter fun g => g.state == .saved && g.preempted == preempted && ((gangOf s g).head?).any (fun x => x.gid == g.gid) && groupPrio s g == prio &&
      (gangReady s g).isSome)

/-- All work in order. Gangs that resume after a pre-emption, which R336 does not list, come last within a priority: DESIGN CHOICE
(log 137). -/
def workList (s : State) : List Work :=
  [3, 2, 1, 0].flatMap fun p =>
    (placingGrids s p 1).map .grid ++ (readyGangs s p false).map .gang ++ (placingGrids s p 3).map .grid ++
    (placingGrids s p 4).map .grid ++ (placingGrids s p 5).map .grid ++ (readyGangs s p true).map .gang

/-- The dies of a piece of work: a recompute group's is the home die of its tile (R403). -/
def gridDies (s : State) (x : Grid) : List Nat :=
  match x.origin with
  | .recompute key => match (buildByKey s key).bind fun b => (getCtx s b.ctx).bind fun c => (regionAt c b.va).map fun r => r.1.die with
    | some d => [d]
    | none => []
  | _ => recDies x.words

/-- What a piece of work wants. -/
def Work.want (s : State) : Work → Want
  | .grid x => { grid := x.id, gangix := x.nextGang, ctx := x.ctx, dies := gridDies s x, recompute := x.cls == 1
                 need := List.replicate (recGang x.words) (some (demandOf x.words)) }
  | .gang g => { grid := g.grid, gangix := g.gangix, ctx := g.ctx, dies := ((getGrid s g.grid).map (gridDies s)).getD [], recompute := g.build.isSome
                 need := (gangSlots s g).map fun x => x.map Group.demand }

/-- The priority of a piece of work. -/
def Work.prio (s : State) : Work → Nat
  | .grid x => x.prio
  | .gang g => groupPrio s g

/-- The age of a piece of work (R338). -/
def Work.age (s : State) : Work → Nat
  | .grid x => ((getGrid s x.id).map (·.age)).getD 0
  | .gang g => ((getGroup s g.gid).map (·.age)).getD 0

/-- Has a piece of work waited GANGAGE passes? -/
def Work.aged (s : State) (k : Work) : Bool := ((getCtx s (k.want s).ctx).map fun c => c.gangage.toNat).getD 0 ≤ k.age s

/-- May older work that has waited GANGAGE passes take a reservation in a die pair that this work may use? It takes it first (R339). -/
def olderRival (s : State) (k : Work) : Bool :=
  let w := k.want s
  (workList s).any fun o =>
    let v := o.want s
    decide (k.age s < o.age s) && o.aged s && mayReserve s v && !(v.grid == w.grid && v.gangix == w.gangix) &&
      v.dies.any fun d => w.dies.any fun e => d / 2 == e / 2

/-- Work that has waited GANGAGE passes reserves, unless older work does (R339). -/
def reserveFor (s : State) (k : Work) : State := if k.aged s && !olderRival s k then reserve s (k.want s) else s

/-- An attempt that did not fit adds 1 to the age (R338). The pass reserves once every gang has been attempted (R339). -/
def ageWork (s : State) (k : Work) : State :=
  match k with
  | .grid x => putGrid s { x with age := x.age + 1 }
  | .gang g => { s with groups := s.groups.map fun h => if sameGang h g then { h with age := h.age + 1 } else h }

/-- The gangs of a grid are placed in order until one does not fit. The fuel is the gangs left. -/
def placeGrid : Nat → State → Nat → State
  | 0, s, _ => s
  | n + 1, s, id => match getGrid s id with
    | none => s
    | some x =>
      if x.state != .placing then s
      else match getCtx s x.ctx with
        | none => s
        | some c => match findCores s (Work.want s (.grid x)) with
          | some cores => placeGrid n (placeGang s x c (Work.want s (.grid x)) cores) id
          | none => ageWork s (.grid x)

/-- One piece of work is attempted. -/
def attempt (s : State) (k : Work) : State :=
  match k with
  | .grid x => placeGrid (recGroups x.words) s x.id
  | .gang g => match findCores s (k.want s) with
    | some cores => resumeGang s (gangSlots s g) (k.want s) cores
    | none => ageWork s k

/-- PLACEMENT_PASS (R336 to R339). What has not been placed reserves in order of age. -/
def execPlacementPass (s : State) : Host.Outcome State Fault Refusal :=
  let t := (workList s).foldl attempt (growReservations s)
  .next ((workList t).foldl reserveFor t)

/-- GROUP_RESUME: a saved gang that is ready is placed when it fits and no work before it does (R336, R449). -/
def execGroupResume (gid : Nat) (s : State) : Host.Outcome State Fault Refusal :=
  .next (let s1 := growReservations s
    match (workList s1).find? fun k => (findCores s1 (k.want s1)).isSome with
    | some (.gang g) => if (getGroup s1 gid).any fun x => sameGang x g then attempt s1 (.gang g) else s
    | _ => s)

end Sys2Proof.Machine
end

