-- ==== Sys2Proof/Machine/Dist.lean ====
section
/-! DEFINITION. The distributor around placement: reading queue entries (R325 to R327), dependences (R331, R332, R490),
fetching a grid's copies (R333, R335), the end of a group and of a grid (R27, R329, R330); and Splice's builds (R400 to R406). -/

namespace Sys2Proof.Machine

/-! ### Queue entries (R325, R326, R334) -/

/-- The context under whose translations a tenant's queues are read: its first that has not ended. -/
def queueCtx (s : State) (t : Nat) : Option Ctx := s.ctxs.find? fun c => c.tenant == t && c.ended.isNone

/-- A queue descriptor of a tenant. -/
def getQueue (s : State) (t q : Nat) : QDesc := ((getTenant s t).q[q]?).getD {}

/-- The state with a queue descriptor replaced. -/
def putQueue (s : State) (t q : Nat) (d : QDesc) : State :=
  putTenant s t { getTenant s t with q := (getTenant s t).q.setIfInBounds q d }

/-- A queue stops with a reason, which is a device event (R325, R453). -/
def stopQueue (s : State) (t q reason : Nat) : State :=
  raiseEvent (putQueue s t q { getQueue s t q with stopped := true, qerr := reason }) t 1

/-- The address of the entry at HEAD. -/
def QDesc.entry (d : QDesc) : Nat := add64 d.base (d.head.toNat % 2 ^ d.log2 * 128)

/-- May the distributor read a queue? -/
def QDesc.readable (d : QDesc) : Bool := d.en && !d.stopped && d.head != d.tail

/-- An accepted host record: HEAD advances, and its grid is QUEUED. -/
def acceptRecord (s : State) (c : Ctx) (t q : Nat) (d : QDesc) (ws : List DWord) : State :=
  let x := newGrid s.nextSeq c.id (.host t q) ws d.head.toNat d.prio c.step
  putQueue { s with nextSeq := s.nextSeq + 1, grids := s.grids ++ [{ x with qseq := d.head.toNat }] } t q { d with head := d.head + 1 }

/-- DISTRIBUTOR_RECORD_READ: the entry at HEAD is read and accepted, or the queue stops. -/
def execDistributorRecordRead (tenant q : Nat) (s : State) : Host.Outcome State Fault Refusal :=
  .next (match queueCtx s tenant with
    | none => s
    | some c =>
      let d := getQueue s tenant q
      if !(getTenant s tenant).en || !d.readable || 8 ≤ q then s
      else match readSys s c .load d.entry 128 with
        | .bytes bs =>
            let ws := recordWords bs
            match recordFault ws with
            | some r => stopQueue s tenant q r
            | none => acceptRecord s c tenant q d ws
        | .fail rank _ _ va => if awayRank rank then askPage s c va else s
        | .tile va _ => meetTile s c none va)

/-! ### Dependences (R327, R331, R332, R490) -/

/-- The grids of the same host queue accepted before a grid. -/
def earlierGrids (s : State) (x : Grid) : List Grid := (s.grids.takeWhile fun y => y.id != x.id).filter fun y => y.origin == x.origin

/-- Has the last gang of a grid been placed, or will none be? -/
def Grid.wholly (x : Grid) : Bool := x.state == .placed || x.state == .ending || x.state == .done || x.state == .refused

/-- Is a grid at the head of its queue, pending queue or spill list, and does R327 allow it to go on? One with BARRIER waits for
the grid before it to be DONE or REFUSED. -/
def atHead (s : State) (x : Grid) : Bool :=
  match x.origin with
  | .host .. => (earlierGrids s x).all Grid.wholly &&
      !(recBarrier x.words && (earlierGrids s x).any fun y => (y.qseq + 1) % 2 ^ 32 == x.qseq)
  | .pendingQueue gid => (getGroup s gid).any fun g => (g.pendingL.head?).any fun p => p.grid == x.id
  | .spill => (s.grids.find? fun y => y.ctx == x.ctx && y.origin == .spill && !y.taken).any fun y => y.id == x.id
  | .recompute _ => true

/-- What a counter read gives: whether it meets a value, or the page or the derived tile it waits for. -/
inductive CounterRead
  | met (b : Bool)
  | page (va : Nat)
  | tile (va : Nat)
  deriving DecidableEq, Repr

/-- A completion counter read at its home slice; address 0 always holds (R332). One that cannot be read does not hold. -/
def readCounter (s : State) (c : Ctx) (addr v : Nat) : CounterRead :=
  if addr = 0 then .met true
  else match readSys s c .load addr 8 with
    | .bytes bs => .met (counterMet (leNat bs) v)
    | .fail rank _ _ va => if awayRank rank then .page va else .met false
    | .tile va _ => .tile va

/-- A dependence is read, unless it has been seen to hold: what is known now, and the state with the page asked for, or the
build of the tile started. -/
def pollDep (s : State) (c : Ctx) (seen : Bool) (addr v : Nat) : Bool × State :=
  if seen then (true, s)
  else match readCounter s c addr v with
    | .met b => (b, s)
    | .page va => (false, askPage s c va)
    | .tile va => (false, meetTile s c none va)

/-- Is a grid at the head of a pending queue ready, so that it is taken before a grid of the spill list (R336, R343)? One whose
dependences have not both been seen to hold stays in WAITDEP, and a ready spill grid is taken before it (R490). -/
def readyHead (s : State) (x y : Grid) : Bool :=
  (match y.origin with
    | .pendingQueue _ => true
    | _ => false) && y.ctx == x.ctx && decide (x.prio ≤ y.prio) && y.state == .waitdep && y.dep0 && y.dep1 && atHead s y

/-- A grid enters FETCH, and leaves its queue, pending queue or spill list (R341, R342, R490). -/
def enterFetch (s : State) (x : Grid) : State :=
  let s1 := putGrid s { x with state := .fetch, taken := true }
  match x.origin with
  | .host t q => { s1 with lastQueue := 8 * t + q }
  | .pendingQueue gid => match getGroup s1 gid with
    | none => s1
    | some g => match g.pendingL.find? fun p => p.grid == x.id with
      | none => s1
      | some p => lowerPath (putGroup s1 { g with pendingL := g.pendingL.filter fun p => p.grid != x.id }) gid 7 p.seq
  | .spill => match getCtx s1 x.ctx with
    | some c => spillPop s1 c
    | none => s1
  | .recompute _ => s1

/-- Would the grid be removed from its pending queue or spill list in a clock in which a LAUNCH of the group has entered a record?
The removal comes first, or in a later clock (R341). -/
def Grid.follows (x : Grid) (g : Group) (clock : Nat) : Bool :=
  g.acceptedAt == some clock && (x.origin == .pendingQueue g.gid || (x.origin == .spill && x.ctx == g.ctx))

/-- DEPENDENCE_POLL: a grid at the head of its queue enters WAITDEP; its counters are read; once both dependences have been
seen to hold it is taken into FETCH. -/
def execDependencePoll (grid : Nat) (s : State) : Host.Outcome State Fault Refusal :=
  .next (match getGrid s grid with
    | none => s
    | some x => match getCtx s x.ctx with
      | none => s
      | some c =>
        if !(x.state == .waitdep || (x.state == .queued && atHead s x)) then s
        else
          let a := pollDep s c x.dep0 (recWord x.words 10) (recWord x.words 11)
          let b := pollDep a.2 c x.dep1 (recWord x.words 12) (recWord x.words 13)
          let x1 := { x with state := .waitdep, dep0 := a.1, dep1 := b.1 }
          let held := (x.origin == .spill && s.grids.any fun y => readyHead s x y) || s.groups.any fun g => x.follows g s.clock
          if a.1 && b.1 && !held && atHead s x then enterFetch b.2 x1 else putGrid b.2 x1)

/-! ### The end of a grid (R329, R330, R335) -/

/-- The counter's atomic step: what it writes, or the page it waits for. A counter that R251 does not let it write is left
alone. -/
def counterStep (s : State) (c : Ctx) (addr : Nat) (failed : Bool) : Except Nat State :=
  if addr = 0 then .ok s
  else match checkSys s c .atomic addr 8 with
    | .ok pa _ =>
        if isPoisoned s pa then .ok (meetPoison s pa)
        else
          let w := readNat s.mem pa 8
          .ok (writeLine s (some c.id) addr pa (leBytes 8 ((w + 1) % 2 ^ 63 + if failed || tbit w 63 then 2 ^ 63 else 0)))
    | .fail rank _ _ va => if awayRank rank then .error va else .ok s
    | .miss p => .error (p * 65536)

/-- A grid that has ended or been refused steps its counter, raises its vector and is gone; it waits for the counter's
page. -/
def completeGrid (s : State) (c : Ctx) (x : Grid) (failed : Bool) : State :=
  match counterStep s c (recWord x.words 14) failed with
  | .error va => askPage (putGrid s { x with state := if failed then .refused else .ending }) c va
  | .ok s1 =>
    let s2 := { s1 with grids := s1.grids.filter fun y => y.id != x.id, reservations := s1.reservations.filter fun r => r.grid != x.id }
    if recIrq x.words then raiseIrq s2 c.tenant (recVec x.words) else s2

/-- GRID_COMPLETION_STEP. -/
def execGridCompletionStep (grid : Nat) (s : State) : Host.Outcome State Fault Refusal :=
  .next (match getGrid s grid with
    | none => s
    | some x => match getCtx s x.ctx with
      | none => s
      | some c => if x.state == .ending || x.state == .refused then completeGrid s c x (x.state == .refused) else s)

/-! ### FETCH (R333) -/

/-- A range in pieces that stay within 128-byte lines. The fuel bounds the lines. -/
def linePieces : Nat → Nat → Nat → List (Nat × Nat)
  | 0, _, _ => []
  | k + 1, a, n => if n = 0 then [] else
      let m := min n (128 - a % 128)
      (a, m) :: linePieces k (add64 a m) (n - m)

/-- A range read in full at its home, or its first failure. -/
def readRange (s : State) (c : Ctx) (use : Use) (a n : Nat) : ReadSys :=
  let rs := (linePieces (n / 128 + 2) a n).map fun p => readSys s c use p.1 p.2
  (readFailure rs).getD (.bytes (readAll rs))

/-- The two reads of FETCH: both copies, or the first failure. -/
def fetchCopies (s : State) (c : Ctx) (x : Grid) : Except ReadSys (List Byte × List Byte) :=
  let args := match x.origin with
    | .recompute _ => ReadSys.bytes x.args
    | _ => readRange s c .load (recWord x.words 5) (recArgSize x.words)
  match args, readRange s c .fetch (recWord x.words 9) (64 * recSliceN x.words) with
  | .bytes a, .bytes b => .ok (a, b)
  | .bytes _, r => .error r
  | r, _ => .error r

/-- GRID_FETCH_COMPLETE. A recompute group whose image cannot be read makes its entry unusable. -/
def execGridFetchComplete (grid : Nat) (s : State) : Host.Outcome State Fault Refusal :=
  .next (match getGrid s grid with
    | none => s
    | some x => match getCtx s x.ctx with
      | none => s
      | some c =>
        if x.state != .fetch then s
        else match fetchCopies s c x with
          | .ok (a, b) => putGrid s { x with args := a, image := b, state := .placing }
          | .error (.tile va _) => meetTile s c none va
          | .error (.fail rank _ _ va) =>
              if awayRank rank then askPage s c va
              else match x.origin with
                | .recompute key => abortBuild s key 0x12 5 0
                | _ => completeGrid s c x true
          | .error (.bytes _) => s)

/-! ### GROUP_END (R27, R405) -/

/-- A Capstan with nothing left to do. -/
def Capstan.finished (k : Capstan) : Bool :=
  k.atRest && k.wait.isNone && k.res.isEmpty && k.eng.isEmpty && k.sld.isEmpty && k.traps.isEmpty && k.taken.isNone &&
  k.acc.isEmpty

/-- Have a group's strands ended, its Capstan's results landed and its path counters fallen to zero? -/
def Group.finished (g : Group) : Bool :=
  g.state == .resident && (g.strands.all fun st => st.pdone && st.acc.isEmpty && st.flights.isEmpty) && g.cap.all Capstan.finished &&
  g.snaps.isEmpty && g.pendingL.isEmpty && (List.range 8).all fun p => g.pathCount p == 0

/-- A recompute group ends: its build and its grid are gone. -/
def endRecompute (s : State) (g : Group) (key : Nat) : State :=
  let s1 := endGroup s g.gid
  { s1 with grids := s1.grids.filter fun x => x.id != g.grid, builds := s1.builds.filter fun b => b.key != key }

/-- GROUP_END. A recompute group that ends without having made its tile PRESENT aborts its chain. -/
def execGroupEnd (gid : Nat) (s : State) : Host.Outcome State Fault Refusal :=
  .next (match getGroup s gid with
    | none => s
    | some g =>
      if !g.finished then s
      else growReservations (match g.build with
        | none => endGroup s gid
        | some key => if (buildByKey s key).all fun b => b.done then endRecompute s g key else abortBuild s key 0x12 3 0))

/-! ### Splice (R400 to R406) -/

/-- SPLICE_BUILD_START: an access meets a DROPPED tile. -/
def execSpliceBuildStart (ctx va : Nat) (by_ : Option Nat) (s : State) : Host.Outcome State Fault Refusal :=
  .next (match getCtx s ctx with
    | none => s
    | some c => match regionAt c va with
      | none => s
      | some (r, n) => if recState s c r n == rsDropped then startBuild s c (granule va) by_ else s)

/-- The home die of a tile. -/
def homeDie (s : State) (ctx va : Nat) : Option Nat := (getCtx s ctx).bind fun c => (regionAt c va).map fun r => r.1.die

/-- The derived sources of a tile that are PRESENT. -/
def presentSources (s : State) (c : Ctx) (r : Region) (n : Nat) : List Nat :=
  ((recordSources s c (recordAddr r n)).filter fun x => !x.1 && match regionAt c x.2 with
    | some (r', n') => recState s c r' n' == rsPresent
    | none => false).map (·.2)

/-- The tiles that hold ways while builds run: BUILDING tiles and pinned sources, by context and address. -/
def heldTiles (s : State) : List (Nat × Nat) :=
  (s.builds.filter fun b => b.admitted && !b.done).flatMap fun b => (b.ctx, b.va) :: b.pins.map fun p => (b.ctx, p)

/-- Does a tile hold a way of set k of a slice, given where its lines start? -/
def usesSet (s : State) (die slice k : Nat) (t : Nat × Nat) : Bool :=
  match (getCtx s t.1).bind fun c => regionAt c t.2 with
  | none => false
  | some (r, n) => r.die == die && n % Config.slices == slice && decide ((k + Config.sets - (tileLine n 0).2) % Config.sets < 40)

/-- Would at most 12 ways of every set of the home slice be held with more tiles held (R403)? -/
def setsFit (s : State) (die slice : Nat) (more : List (Nat × Nat)) : Bool :=
  let l := (heldTiles s ++ more).eraseDups
  (List.range Config.sets).all fun k => decide ((l.filter (usesSet s die slice k)).length ≤ 12)

/-- What reading a kernel entry gives. -/
inductive KernelRead
  | usable (ws : List DWord)
  | unusable
  | page (va : Nat)
  | tile (va : Nat)
  deriving DecidableEq, Repr

/-- The recipe kernel table's entry k (R400). -/
def kernelEntry (s : State) (c : Ctx) (k : Nat) : KernelRead :=
  if c.rkcount ≤ k then .unusable
  else match readSys s c .load (add64 c.rkbase (128 * k)) 128 with
    | .bytes bs =>
        let ws := recordWords bs
        if (recordFault ws).isNone && recGroups ws == 1 && recGang ws == 1 && recArgSize ws == 0 && recWord ws 10 == 0 &&
            recWord ws 12 == 0 && recWord ws 14 == 0 && !recIrq ws && !recBarrier ws then .usable ws else .unusable
    | .fail rank _ _ va => if awayRank rank then .page va else .unusable
    | .tile va _ => .tile va

/-- The grid of a recompute group: its registers hold the record, the tile's address and the depth (R401). -/
def recomputeGrid (s : State) (c : Ctx) (b : Build) (at_ : Nat) (ws : List DWord) : Grid :=
  { id := s.nextSeq, ctx := c.id, origin := .recompute b.key, taken := true, words := ws, state := .fetch
    prio := bits c.rcpcores.toNat 9 8, step := c.step, args := sysBytes s c at_ 64 ++ leBytes 8 b.va ++ leBytes 4 b.depth }

/-- A build is admitted: its tile is BUILDING, its PRESENT sources are pinned, and its group waits to be placed. -/
def admitBuild (s : State) (c : Ctx) (b : Build) (r : Region) (n : Nat) (ws : List DWord) : State :=
  let s1 := setRecord s c r n rsBuilding b.depth b.chain
  let pins := presentSources s c r n
  { s1 with builds := s1.builds.map fun x => if x.key == b.key then { x with admitted := true, pins } else x
            grids := s1.grids ++ [recomputeGrid s1 c b (recordAddr r n) ws], nextSeq := s1.nextSeq + 1 }

/-- SPLICE_BUILD_ADMIT: the oldest waiting build of a home die, once the sets have room. A tile that is DROPPED no longer
needs no build. Splice waits for the page of the record (R375); a record that it cannot read aborts the chain: with DATA_ERROR
where its line is poisoned, else as an unusable entry (DESIGN CHOICE, log 123). -/
def execSpliceBuildAdmit (ctx va : Nat) (s : State) : Host.Outcome State Fault Refusal :=
  .next (match buildOf s ctx va, getCtx s ctx with
    | some b, some c => match regionAt c va with
      | none => s
      | some (r, n) => match sysCheck s c .load (recordAddr r n) with
      | .fail rank cause _ a =>
          if b.admitted then s else if awayRank rank then askPage s c a else abortBuild s b.key (if cause = 0x0A then cause else 0x12) (if cause = 0x0A then 0 else 5) 0
      | .miss _ => s
      | .ok pa _ =>
        if b.admitted then s
        else if isPoisoned s pa then abortBuild (meetPoison s pa) b.key 0x0A 0 0
        else if (s.builds.takeWhile fun o => o.key != b.key).any (fun o => !o.admitted && homeDie s o.ctx o.va == some r.die) then s
        else if recState s c r n != rsDropped then { s with builds := s.builds.filter fun o => o.key != b.key }
        else if !setsFit s r.die (n % Config.slices) ((ctx, va) :: (presentSources s c r n).map fun p => (ctx, p)) then s
        else match kernelEntry s c (sysNat s c (recordAddr r n) 2) with
          | .page p => askPage s c p
          | .tile t => meetTile s c none t
          | .unusable => abortBuild s b.key 0x12 5 0
          | .usable ws => admitBuild s c b r n ws
    | _, _ => s)

/-- Why a chain aborts, if it does: a build deeper than RCPDEPTH, or one whose group is gone without having made its tile
PRESENT. -/
def chainCause (s : State) (b : Build) : Option (Nat × Nat × Nat) :=
  if (getCtx s b.ctx).any fun c => decide (c.rcpdepth < b.depth) && !b.admitted then some (0x10, 0, b.depth - 1)
  else if !b.done && b.gid.any fun gid => (getGroup s gid).isNone then some (0x12, 3, b.depth)
  else none

/-- SPLICE_CHAIN_ABORT. -/
def execSpliceChainAbort (chain : Nat) (s : State) : Host.Outcome State Fault Refusal :=
  .next (match (s.builds.filter fun b => b.chain == chain).findSome? (chainCause s) with
    | some (cause, reason, depth) => abortChain s chain cause reason depth 0
    | none => s)

end Sys2Proof.Machine
end

