-- ==== Sys2Proof/Machine/Shake.lean ====
section
/-! DEFINITION. SHAKE256 of FIPS 202, which the boot ROM and attestation use (R460, R461; log 82). Lane x, y of the sponge's state
stands at place x + 5 y of a list. -/

namespace Sys2Proof.Machine

/-- A lane. -/
def lane (a : List DWord) (n : Nat) : DWord := a.getD n 0

/-- The distances by which the lanes are rotated. -/
def shakeRotations : List Nat :=
  [0, 1, 62, 28, 27, 36, 44, 6, 55, 20, 3, 10, 43, 25, 39, 41, 45, 15, 21, 8, 18, 2, 61, 56, 14]

/-- The round constants. -/
def shakeConstants : List DWord :=
  [0x1, 0x8082, 0x800000000000808A, 0x8000000080008000, 0x808B, 0x80000001, 0x8000000080008081, 0x8000000000008009,
   0x8A, 0x88, 0x80008009, 0x8000000A] ++
  [0x8000808B, 0x800000000000008B, 0x8000000000008089, 0x8000000000008003, 0x8000000000008002, 0x8000000000000080,
   0x800A, 0x800000008000000A, 0x8000000080008081, 0x8000000000008080, 0x80000001, 0x8000000080008008]

/-- The parity of column x. -/
def column (a : List DWord) (x : Nat) : DWord := (List.range 5).foldl (fun w y => w ^^^ lane a (x % 5 + 5 * y)) 0

/-- Each lane takes in the columns beside it. -/
def shakeTheta (a : List DWord) : List DWord :=
  (List.range 25).map fun n => lane a n ^^^ column a (n + 4) ^^^ (column a (n + 1)).rotateLeft 1

/-- Each lane is rotated and moves: that of x, y to y, 2 x + 3 y. -/
def shakeRhoPi (a : List DWord) : List DWord :=
  (List.range 25).map fun n =>
    let k := (n % 5 + 3 * (n / 5)) % 5 + 5 * (n % 5)
    (lane a k).rotateLeft (shakeRotations.getD k 0)

/-- Each lane takes in the two that follow it in its row. -/
def shakeChi (a : List DWord) : List DWord :=
  (List.range 25).map fun n =>
    let row := n / 5 * 5
    lane a n ^^^ (~~~(lane a (row + (n + 1) % 5)) &&& lane a (row + (n + 2) % 5))

/-- A round. -/
def shakeRound (a : List DWord) (c : DWord) : List DWord := updAt (shakeChi (shakeRhoPi (shakeTheta a))) 0 (· ^^^ c)

/-- The permutation. -/
def shakePermute (a : List DWord) : List DWord := shakeConstants.foldl shakeRound a

/-- A block of 136 bytes is taken in. -/
def shakeAbsorb (a : List DWord) (block : List Byte) : List DWord :=
  shakePermute (a.mapIdx fun n w => w ^^^ BitVec.ofNat 64 (leNat ((block.drop (8 * n)).take 8)))

/-- A message with its domain bits and padding. -/
def shakePad (m : List Byte) : List Byte :=
  let n := 136 - m.length % 136
  m ++ if n = 1 then [0x9F] else 0x1F :: List.replicate (n - 2) 0 ++ [0x80]

/-- The first n bytes, at most 136, of SHAKE256 of a message. -/
def shake256 (m : List Byte) (n : Nat) : List Byte :=
  let p := shakePad m
  let a := (List.range (p.length / 136)).foldl (fun a k => shakeAbsorb a ((p.drop (136 * k)).take 136)) (List.replicate 25 0)
  (a.flatMap fun w => leBytes 8 w.toNat).take n

end Sys2Proof.Machine
end

