-- ==== Sys2Proof/Machine/Signature.lean ====
section
/-! DEFINITION. Verification under SLH-DSA-SHAKE-256s of FIPS 205, which the boot ROM uses (R460). The spec names the scheme and does
not print it: its parts are taken from FIPS 205, PRESUMED (log 144). Of its parameters n = 32, h = 64, d = 8, h / d = 8, a = 14, k = 22,
w = 16, and a chain list has 67 chains. -/

namespace Sys2Proof.Machine

/-- The address of a hash: its tree, what it hashes, and three words that say where. -/
structure SigAddr where
  layer : Nat := 0
  tree : Nat := 0
  kind : Nat := 0
  w1 : Nat := 0
  w2 : Nat := 0
  w3 : Nat := 0
  deriving DecidableEq, Repr

/-- A number as n bytes, the highest first. -/
def beBytes (n x : Nat) : List Byte := (leBytes n x).reverse
/-- The number of some bytes, the highest first. -/
def beNat (bs : List Byte) : Nat := leNat bs.reverse

/-- An address as bytes. -/
def SigAddr.bytes (a : SigAddr) : List Byte :=
  beBytes 4 a.layer ++ beBytes 12 a.tree ++ beBytes 4 a.kind ++ beBytes 4 a.w1 ++ beBytes 4 a.w2 ++ beBytes 4 a.w3

/-- The nth piece of 32 bytes. -/
def piece (bs : List Byte) (n : Nat) : List Byte := (bs.drop (32 * n)).take 32

/-- The hash of a message at an address: F, H and T of the scheme. -/
def sigHash (seed : List Byte) (a : SigAddr) (m : List Byte) : List Byte := shake256 (seed ++ a.bytes ++ m) 32

/-- The root that a leaf and its path come to: at each height the two nodes stand in the order that the leaf's index gives. -/
def sigPath (seed : List Byte) (a : SigAddr) (base ix : Nat) (path : List (List Byte)) (leaf : List Byte) : List Byte :=
  (path.zipIdx.foldl (fun (acc : List Byte × Nat) p =>
    let up := acc.2 / 2
    let at_ := { a with w2 := p.2 + 1, w3 := up }
    (sigHash seed at_ (if ix / 2 ^ p.2 % 2 = 0 then acc.1 ++ p.1 else p.1 ++ acc.1), up)) (leaf, base + ix)).1

/-- The public key of the few-times signature: 22 trees of 2^14 leaves, of each the leaf that 14 bits of the digest name. -/
def forsKey (seed sig md : List Byte) (tree leaf : Nat) : List Byte :=
  let a : SigAddr := { tree, kind := 3, w1 := leaf }
  let roots := (List.range 22).flatMap fun i =>
    let ix := beNat md / 2 ^ (312 - 14 * (i + 1)) % 2 ^ 14
    let node := sigHash seed { a with w2 := 0, w3 := i * 2 ^ 14 + ix } (piece sig (15 * i))
    sigPath seed a (i * 2 ^ 14) ix ((List.range 14).map fun j => piece sig (15 * i + 1 + j)) node
  sigHash seed { a with kind := 4 } roots

/-- A chain from one step to another. -/
def sigChain (seed : List Byte) (a : SigAddr) (x : List Byte) (first count : Nat) : List Byte :=
  (List.range count).foldl (fun x j => sigHash seed { a with w3 := first + j } x) x

/-- The 67 digits of base 16 of a node: its own, and those of what they lack from 15. -/
def sigDigits (m : List Byte) : List Nat :=
  let own := m.flatMap fun b => [b.toNat / 16, b.toNat % 16]
  let lack := (own.map fun d => 15 - d).sum
  own ++ [lack / 256 % 16, lack / 16 % 16, lack % 16]

/-- The public key of a one-time signature of a node. -/
def wotsKey (seed sig m : List Byte) (a : SigAddr) : List Byte :=
  let ends := (sigDigits m).zipIdx.flatMap fun d => sigChain seed { a with w2 := d.2 } (piece sig d.2) d.1 (15 - d.1)
  sigHash seed { a with kind := 1, w2 := 0, w3 := 0 } ends

/-- The root of a layer's tree from its signature of a node: 67 chains, then a path of 8. -/
def xmssRoot (seed sig m : List Byte) (layer tree ix : Nat) : List Byte :=
  let a : SigAddr := { layer, tree }
  sigPath seed { a with kind := 2 } 0 ix ((List.range 8).map fun j => piece sig (67 + j)) (wotsKey seed sig m { a with w1 := ix })

/-- The root of the highest layer, from the signatures of the eight. -/
def hyperRoot (seed sig m : List Byte) (tree leaf : Nat) : List Byte :=
  ((List.range 8).foldl (fun (acc : List Byte × Nat × Nat) j =>
    let (m, tree, leaf) := acc
    (xmssRoot seed ((sig.drop (2400 * j)).take 2400) m j tree leaf, tree / 256, tree % 256)) (m, tree, leaf)).1

/-- Does a signature of a message hold for a public key of 64 bytes? The message is taken with an empty context. -/
def signatureHolds (key m sig : List Byte) : Bool :=
  let digest := shake256 (sig.take 32 ++ key.take 64 ++ [0, 0] ++ m) 47
  let tree := beNat ((digest.drop 39).take 7)
  let leaf := beNat (digest.drop 46)
  let seed := key.take 32
  let node := forsKey seed ((sig.drop 32).take 10560) (digest.take 39) tree leaf
  sig.length == 29792 && hyperRoot seed (sig.drop 10592) node tree leaf == (key.drop 32).take 32

/-- The Carralyn public key (R460): the spec says that its digest is fused, and gives neither. -/
def carralynKey : List Byte := (List.range 64).map Config.carralynKey

end Sys2Proof.Machine
end

