-- ==== Sys2Proof/Machine/Stop.lean ====
section
/-! DEFINITION. Stops (R340, R345, R356, R441, R445 to R450, R454): when a group may stop, how a gang is saved, who is
pre-empted, conversion to a waiter, and the debugger's halt. -/

namespace Sys2Proof.Machine

/-! ### Reaching a stop (R318, R356, R441, R446) -/

/-- Does a load wait only for derived tiles that are not PRESENT? -/
def Entry.stuck (s : State) (c : Ctx) (e : Entry) : Bool :=
  e.sent && e.tileSince.isSome && (e.parts.any fun p => !p.done) &&
  e.parts.all fun p => p.done || (p.onTile && (tileUnready s c p.addr).isSome)

/-- Has an issued load waited so long on a derived tile that its group converts (R266, R450)? -/
def Entry.expired (s : State) (c : Ctx) (e : Entry) : Bool :=
  e.stuck s c && e.tileSince.any fun t => decide (t + c.joinspin.toNat ≤ s.clock)

/-- Have an agent's queues drained (R318)? A load that has waited JOINSPIN clocks on a derived tile, so that its group converts (R450),
and what waits behind it, is saved with its group: DESIGN CHOICE (log 118). -/
def queuesDrained (s : State) (c : Ctx) (l : List Entry) : Bool :=
  l.zipIdx.all fun x => x.1.expired s c || (x.2 != 0 && !x.1.sent && !x.1.sendable (l.take x.2))

/-- Is a strand at a boundary where a stop takes it: no handler delays it, its writes landed and its accesses performed? -/
def Strand.stopped (st : Strand) (s : State) (c : Ctx) (r : StopReq) : Bool :=
  st.flights.isEmpty && queuesDrained s c st.acc && st.trap.isNone &&
  (st.pdone || (!st.delays r && st.wait.all fun w => w.kind.leaves))

/-- Is a Capstan at a bundle boundary, or frozen on a slot that will be entered again, with its accesses performed? -/
def Capstan.stopped (k : Capstan) (s : State) (c : Ctx) : Bool :=
  (k.part.isNone || k.pageWait.isSome) && k.traps.isEmpty && queuesDrained s c k.acc &&
  k.sld.all fun w => w.data.isNone && k.acc.any fun e => e.seq == w.seq

/-- Does a strand's TAKE complete in this clock? It does so before a stop (R445). -/
def takeDue (s : State) (g : Group) (j : Nat) (st : Strand) : Bool :=
  match st.wait with
  | some { kind := .take k, .. } => (offerTo g j k).any fun o => takeable s g o.1 o.2.1
  | _ => false

/-- May a group that has been asked to stop be saved or halted? -/
def groupStopped (s : State) (g : Group) : Bool :=
  let co := getCore s g.core
  g.state == .resident && !((co.ch0 ++ co.ch1).any fun k => k.gid == g.gid && k.started) &&
  match g.stopReq, getCtx s g.ctx with
  | some r, some c => (g.strands.zipIdx.all fun x => x.1.stopped s c r && !takeDue s g x.2 x.1) && g.cap.all fun k => k.stopped s c
  | _, _ => false

/-- Groups of a gang that hold a core. -/
def gangHere (s : State) (g : Group) : List Group := s.groups.filter fun x => sameGang x g && x.state != .saved

/-- Free save slots of a context: SAVEN less the groups that are saved or on their way (R435, R449). -/
def saveRoom (s : State) (c : Ctx) : Nat :=
  sysNat s c (c.trapvec + 0x30) 4 -
    (s.groups.filter fun g => g.ctx == c.id && (g.state == .saved || g.stopReq.any fun r => !r.halt)).length

/-- A gang is asked to stop; one group may carry a future. A halt that is under way stays (R445). -/
def requestStop (s : State) (g : Group) (future : Future) (rewind : Bool) : State :=
  let ask := fun (x : Group) =>
    if !sameGang x g || x.state == .saved then x
    else if x.gid == g.gid && !x.stopReq.any (fun r => r.halt) then { x with stopReq := some { future, since := s.clock, rewind } }
    else if x.stopReq.isNone then { x with stopReq := some { future := .none, since := s.clock } }
    else x
  { s with groups := s.groups.map ask }

/-! ### Saving (R342, R421, R448, R449) -/

/-- A bundle frozen before a slot that a stop takes: the slot and those after it are entered again (R375, R446, R449), as a
bundle of their own. -/
def Capstan.leavePart (k : Capstan) : Capstan :=
  match k.part with
  | some p => { k with cpc := p.cpc, part := none, pageWait := none, reenter := some (p.idx, p.next, false) }
  | none => k

/-- A group of a core with its Capstan's results in flight in the snapshot buffer, and its Capstan at a bundle boundary. -/
def Group.snapshotted (g : Group) (co : Core) : Group :=
  match g.cap with
  | none => g
  | some k => { g with snaps := g.snaps ++ k.snapped g.vcyc co, cap := some { k with res := [], eng := [] }.leavePart }

/-- The engine of a group's core goes on with what the group leaves to it (R230). -/
def leaveEngine (s : State) (g : Group) : State :=
  match g.cap with
  | none => s
  | some k => putCore s g.core ((getCore s g.core).stopEngine k)

/-- The tiles that an agent's issued loads wait on, each with the clock from which they do (R450). -/
def tileWaits (s : State) (c : Ctx) (l : List Entry) : List (WaitKind × Nat × Bool) :=
  (l.filter fun e => e.stuck s c).flatMap fun e => (e.parts.filter fun p => !p.done).map fun p =>
    (.tile (granule p.addr), e.tileSince.getD s.clock, false)

/-- The waits of a group that have not come to an end: each with the clock from which it lasts and whether it is that of an
instruction of an ACTIVE strand (R323). -/
def groupWaits (s : State) (g : Group) : List (WaitKind × Nat × Bool) :=
  ((List.range g.strands.length).filterMap fun j => match viewOf s g.gid j 0 0 with
    | some v => match v.st.wait with
      | some w => if v.thawed w then none else some (w.kind, w.since, v.st.active && w.len != 0)
      | none => none
    | none => none) ++
  (match capViewOf s g.gid with
    | some v => match v.k.pageWait with
      | some w => if v.thawed w then [] else [(w, v.k.waitSince, false)]
      | none => []
    | none => []) ++
  (match getCtx s g.ctx with
    | some c => (g.strands.flatMap fun st => tileWaits s c st.acc) ++ g.cap.elim [] fun k => tileWaits s c k.acc
    | none => [])

/-- Does an instruction of an ACTIVE strand wait for an absent page, so that the group's regions restart (R323)? -/
def regionWaits (s : State) (g : Group) : Bool :=
  (groupWaits s g).any fun w => w.2.2 && match w.1 with
    | .page _ | .mapWord .. | .record _ => true
    | _ => false

/-- A load that a strand has issued inside its region: not a barrier or a prefetch, nor an access of its handler. -/
def Entry.ofRegion (e : Entry) : Bool :=
  e.inRegion && !e.inHandler && match e.kind with
    | .load .. | .lookup _ | .rcpq .. => true
    | _ => false

/-- A discarded load's destination words become free values. -/
def discardWords (s : State) (st : Strand) (e : Entry) : List VWrite :=
  let regs := ({ st with acc := [e], flights := [] } : Strand).busyV
  (regs.flatMap fun r => e.parts.map fun p => (r, p.lane)).zipIdx.map fun x =>
    { tile := x.1.1.1, reg := x.1.1.2, lane := x.1.2, word := Config.freeWord (s.free + x.2), tag := Config.freeTag (s.free + x.2) }

/-- One load of a region is discarded. -/
def discardLoad (s : State) (gid j : Nat) (st : Strand) (e : Entry) : State :=
  let ws := discardWords s st e
  let s1 := dropEntry { s with free := s.free + ws.length } (.strand gid j) e
  match getGroup s1 gid with
  | some g => putGroup s1 (g.writeWords ws)
  | none => s1

/-- The loads that ACTIVE strands issued inside their regions and that are still in flight are discarded (R323). -/
def discardLoads (s : State) (gid : Nat) : State :=
  match getGroup s gid with
  | none => s
  | some g => g.strands.zipIdx.foldl (fun s x =>
      if x.1.active then (x.1.acc.filter fun e => e.ofRegion).foldl (fun s e => discardLoad s gid x.2 x.1 e) s else s) s

/-- A strand of a rewound group restarts its region (R323). -/
def Strand.rewound (st : Strand) : Strand :=
  if st.active && !st.pdone then { st with pc := st.rgnpc, em := st.rgnem &&& st.live, wait := none }.leaveHandler else st

/-- A group that stops has left its regions where an instruction of an ACTIVE strand found an absent page: its loads in flight there
are discarded, and its ACTIVE strands restart (R323). -/
def leaveRegions (s : State) (gid : Nat) : State :=
  match getGroup s gid with
  | none => s
  | some g =>
    if (g.stopReq.any fun r => r.rewind) || regionWaits s g then
      let s1 := discardLoads s gid
      match getGroup s1 gid with
      | some g1 => putGroup s1 { g1 with strands := g1.strands.map Strand.rewound }
      | none => s1
    else s

/-- One group is saved and leaves its core, whose TLB is emptied (R371). Its cleats go with the arrivals they hold. -/
def saveGroup (s : State) (gid : Nat) : State :=
  let s1 := spillPending (leaveRegions s gid) gid
  match getGroup s1 gid with
  | none => s1
  | some g =>
    let co := getCore s1 g.core
    let copies := ((co.ch0.filter fun k => k.gid == gid).map fun k => (0, k)) ++ ((co.ch1.filter fun k => k.gid == gid).map fun k => (1, k))
    let req := g.stopReq.getD { future := .none, since := s.clock }
    let g1 := { g.snapshotted co with
      state := .saved, savedCleats := co.cleats.filter fun e => e.2.owner == some gid
      savedCopies := copies, future := req.future
      ready := if req.future == .none then some s.clock else none, stopReq := none, convTry := none }
    putGroup (emptyTlb (clearCore (leaveEngine s1 g) g) g.core) g1

/-- A gang whose stop has been asked for is saved once every group of it is at its boundary. A group that no stop has
reached yet is asked too. -/
def advanceStop (s : State) (g : Group) : State :=
  let here := gangHere s g
  if here.all fun x => groupStopped s x && x.stopReq.all fun r => !r.halt then
    growReservations (settleSlice (here.foldl (fun s x => saveGroup s x.gid) s) g.ctx)
  else { s with groups := s.groups.map fun x => if sameGang x g && x.state == .resident && x.stopReq.isNone then
      { x with stopReq := some { future := .none, since := s.clock } } else x }

/-- Has a stop of the group's gang been asked for, and no halt of the group itself? -/
def stopping (s : State) (g : Group) : Bool :=
  g.state == .resident && (gangHere s g).any fun x => x.stopReq.any fun r => !r.halt

/-- A stop is asked for, and taken at once where it may be. -/
def stopGang (s : State) (g : Group) (future : Future) (rewind : Bool) : State :=
  let s1 := requestStop s g future rewind
  match getGroup s1 g.gid with
  | some g1 => advanceStop s1 g1
  | none => s1

/-! ### Pre-emption (R340) -/

/-- The state without the gangs of some groups. -/
def withoutGangs (s : State) (l : List Group) : State :=
  let gone := s.groups.filter fun x => x.state != .saved && l.any fun g => sameGang x g
  { gone.foldl clearCore s with groups := s.groups.filter fun x => !gone.any fun g => g.gid == x.gid }

/-- Has the slice of a group's context expired? A recompute group is not pre-empted for it. -/
def sliceOver (s : State) (g : Group) : Bool := g.build.isNone && (getCtx s g.ctx).any fun c => c.expired

/-- May a group be pre-empted for work of a priority? -/
def preemptible (s : State) (w : Want) (prio : Nat) (g : Group) : Bool :=
  g.state == .resident && g.stopReq.isNone && g.ctx != w.ctx &&
  (decide (groupPrio s g < prio) || (decide (groupPrio s g ≤ prio) && sliceOver s g))

/-- The gangs that may be pre-empted, one group of each, the most recently placed first. -/
def candidates (s : State) (w : Want) (prio : Nat) : List Group :=
  let l := sortBy (fun g => s.clock - g.placedAt) (s.groups.filter fun g => preemptible s w prio g)
  l.filter fun g => ((gangHere s g).all fun x => x.state == .resident) && !(l.takeWhile fun x => x.gid != g.gid).any fun x => sameGang x g

/-- Gangs are added until the work fits; a gang whose context has no save slot left is passed over. The result is the gangs on
the cores it then needs. -/
def chooseVictims (s : State) (w : Want) : List Group → List Group → List Group
  | [], _ => []
  | g :: rest, picked =>
      let used := (picked.filter fun x => x.ctx == g.ctx).foldl (fun n x => n + (gangHere s x).length) 0
      if (getCtx s g.ctx).all fun c => decide (saveRoom s c < used + (gangHere s g).length) then chooseVictims s w rest picked
      else
        let l := picked ++ [g]
        match findCores (withoutGangs s l) w with
        | some cores => l.filter fun x => (gangHere s x).any fun y => cores.contains y.core
        | none => chooseVictims s w rest l

/-- The gangs pre-empted for one piece of work: none where it fits, or will once the stops under way are done. -/
def victimsFor (s : State) (k : Work) : List Group :=
  let w := k.want s
  let under := s.groups.filter fun g => g.stopReq.any fun r => !r.halt
  if (findCores (withoutGangs s under) w).isSome then [] else chooseVictims s w (candidates s w (k.prio s)) []

/-- Does a group whose context's slice has expired hold a reserved position? -/
def onReserved (s : State) (g : Group) : Bool :=
  g.state == .resident && sliceOver s g && s.reservations.any fun r =>
    let p := ringOf g.core
    r.pair == p.1 && r.ring == p.2.1 && ((List.range r.n).any fun k => (r.start + k) % 16 == p.2.2) &&
    !(r.grid == g.grid && r.gangix == g.gangix)

/-- The three cases of R340. -/
def mustPreempt (s : State) (g : Group) : Bool :=
  g.state == .resident &&
  ((onReserved s g && (getCtx s g.ctx).any fun c => decide ((gangHere s g).length ≤ saveRoom s c)) ||
   (workList s).any fun k => (victimsFor s k).any fun x => sameGang x g)

/-- PREEMPTION: a group that R340 picks is stopped with its gang; a stop under way goes on until the gang is saved. A halt comes first
(R445). -/
def execPreemption (gid : Nat) (s : State) : Host.Outcome State Fault Refusal :=
  .next (match getGroup s gid with
    | none => s
    | some g =>
      if stopping s g then advanceStop s g
      else if mustPreempt s g && !g.stopReq.isSome then stopGang { s with groups := s.groups.map fun x => if sameGang x g then { x with preempted := true } else x } g .none false
      else s)

/-- TIME_SLICE_EXPIRY (R340, R445). -/
def execTimeSliceExpiry (ctx : Nat) (s : State) : Host.Outcome State Fault Refusal :=
  .next (match getCtx s ctx with
    | none => s
    | some c =>
      let n := c.tslice.toNat % 2 ^ 24
      if n ≠ 0 && (c.sliceStart.any fun t => decide (t + 1024 * n ≤ s.clock)) &&
          !s.groups.any fun g => g.ctx == ctx && g.state == .halted then putCtx s { c with expired := true } else s)

/-! ### Waiters (R345, R375, R450, R454) -/

/-- Can a gang be saved now: are there save slots for it? -/
def gangRoom (s : State) (g : Group) : Bool := (getCtx s g.ctx).any fun c => decide ((gangHere s g).length ≤ saveRoom s c)

/-- A conversion that cannot be made keeps its core; it is tried again later. `ring` says that the pager ring is full. -/
def holdConversion (s : State) (g : Group) (ring : Bool) : State := putGroup s { g with convTry := some (s.clock, ring) }

/-- The first wait that makes a group convert (R450): on the pager at once, on a derived tile after JOINSPIN; and whether the group's
regions restart. -/
def convertingWait (s : State) (c : Ctx) (g : Group) : Option (WaitKind × Bool) :=
  ((groupWaits s g).find? fun w => match w.1 with
    | .page _ | .mapWord .. | .record _ => true
    | .tile _ => decide (w.2.1 + c.joinspin.toNat ≤ s.clock)
    | _ => false).map fun w => (w.1, regionWaits s g)

/-- What a pager wait asks for. -/
def WaitKind.ask : WaitKind → Option PagerAsk
  | .page va | .record va => some (.page va)
  | .mapWord h p => some (.mapWord h p)
  | _ => none

/-- A gang converts on a future, or is held. The loads of a region that restarts are discarded as the stop is made. -/
def convertOn (s : State) (g : Group) (future : Future) (rewind : Bool) : State :=
  if gangRoom s g && (gangHere s g).all fun x => x.state == .resident then
    let s1 := if rewind then discardLoads s g.gid else s
    (getGroup s1 g.gid).elim s1 fun g1 => stopGang s1 g1 future rewind
  else holdConversion s g false

/-- A group's request: the one that is open already, or a new one. None where the ring has no room. -/
def groupRequest (s : State) (c : Ctx) (g : Group) (a : PagerAsk) : Option (Nat × State) :=
  match (getTenant s c.tenant).pgopen.find? fun p => p.ctx == c.id && p.agent == some g.gid && p.va == a.key with
  | some p => some (p.number, s)
  | none => postPager s c (some g.gid) a

/-- A group converts on a wait. Its request is posted first; with the ring full or no save slot free it is held. -/
def convertWait (s : State) (c : Ctx) (g : Group) (k : WaitKind) (rewind : Bool) : State :=
  match k with
  | .tile va => convertOn s g (.tile va) false
  | _ => match k.ask with
    | none => s
    | some a => match groupRequest s c g a with
      | none => holdConversion s g true
      | some (n, s1) => (getGroup s1 g.gid).elim s1 fun g1 => convertOn s1 g1 (.pager n) rewind

/-- A JOIN that has waited JOINSPIN clocks on a counter that does not meet its value (R345). -/
def joinExpired (s : State) (c : Ctx) (st : Strand) : Option (Nat × Nat) :=
  match st.wait with
  | some { kind := .join _ addr v, since, len := _ } =>
      if s.clock < since + c.joinspin.toNat then none
      else match readSys s c .load addr 8 with
        | .bytes bs => if counterMet (leNat bs) v then none else some (addr, v)
        | _ => none
  | _ => none

/-- JOIN_SWAP_OUT. -/
def execJoinSwapOut (gid j : Nat) (s : State) : Host.Outcome State Fault Refusal :=
  .next (match viewOf s gid j 0 0 with
    | none => s
    | some v =>
      if stopping s v.g then advanceStop s v.g
      else if v.g.state != .resident || v.g.stopReq.isSome || v.g.convTry.isSome then s
      else match joinExpired s v.c v.st with
        | some (addr, n) => convertOn s v.g (.counter addr n) false
        | none => s)

/-- WAITER_CONVERSION. -/
def execWaiterConversion (gid : Nat) (s : State) : Host.Outcome State Fault Refusal :=
  .next (match getGroup s gid with
    | none => s
    | some g => match getCtx s g.ctx with
      | none => s
      | some c =>
        if stopping s g then advanceStop s g
        else if g.state != .resident || g.stopReq.isSome || g.convTry.isSome then s
        else match convertingWait s c g with
          | some (k, rewind) => convertWait s c g k rewind
          | none => s)

/-- The first wait of a held conversion that is still a reason to convert, a waiting JOIN's counter first. -/
def retryConversion (s : State) (c : Ctx) (g : Group) : State :=
  let g0 := { g with convTry := none }
  let s0 := putGroup s g0
  match g.strands.findSome? fun st => joinExpired s c st with
  | some (addr, n) => convertOn s0 g0 (.counter addr n) false
  | none => match convertingWait s c g with
    | some (k, rewind) => convertWait s0 c g0 k rewind
    | none => s0

/-- A Capstan whose page, map word or tile is there goes on. -/
def wakeCapstan (s : State) (gid : Nat) : State :=
  match capViewOf s gid with
  | some v => if v.k.pageWait.any (fun w => v.thawed w) then { v with k := { v.k with pageWait := none } }.put else s
  | none => s

/-- CONVERSION_RETRY: 4,096 clocks have passed, or save slots are free where they were not. A strand or slot whose page, map word
or tile is there goes on without conversion (R449, R454). -/
def execConversionRetry (gid : Nat) (s : State) : Host.Outcome State Fault Refusal :=
  .next (match getGroup s gid with
    | none => s
    | some g => match g.convTry, getCtx s g.ctx with
      | some t, some c =>
        if g.state != .resident || g.stopReq.isSome || !(decide (t.1 + 4096 ≤ s.clock) || (!t.2 && gangRoom s g)) then s
        else
          let s0 := putGroup s { g with convTry := none }
          let s1 := wakeCapstan ((List.range g.strands.length).foldl (fun s j => wakeStrand s gid j) s0) gid
          match getGroup s1 gid with
          | some g1 => retryConversion s1 c g1
          | none => s1
      | _, _ => s)

/-- A strand's instruction words at its PC, for a record that names it; words that cannot be fetched are free values. -/
def pregraceRec (v : View) (cause : Nat) : View × TrapRec :=
  let r := deliveryRec v { cause, bpc := 0, crpc := 0, npc := 0 }
  (r.1, { r.2 with kind := 0 })

/-- PREGRACE_EXPIRY: a masked handler has delayed a stop beyond PREGRACE, and the context ends (R447). -/
def execPregraceExpiry (gid : Nat) (s : State) : Host.Outcome State Fault Refusal :=
  .next (match getGroup s gid with
    | none => s
    | some g => match g.stopReq.bind fun r => (g.strands.findIdx? fun st => st.delays r && !st.pdone).map fun j => (r, j) with
      | some (r, j) => match viewOf s gid j 0 0 with
        | none => s
        | some v =>
          if g.state == .resident && decide (r.since + Config.clocksPerMicrosecond * v.c.pregrace.toNat < s.clock) then
            let x := pregraceRec v 0x17
            fatalEnd x.1.put v.c x.2 false j v.st.em
          else s
      | none => s)

/-! ### The debugger (R445) -/

/-- DEBUG_HALT: the group stops as for a pre-emption, and holds its core. A stop that was under way is deferred. -/
def execDebugHalt (gid : Nat) (s : State) : Host.Outcome State Fault Refusal :=
  .next (match getGroup s gid with
    | none => s
    | some g =>
      if g.state != .resident then s
      else
        let rewind := g.stopReq.any fun r => r.rewind
        let g1 := if g.stopReq.any fun r => r.halt then g else { g with stopReq := some { future := .none, since := s.clock, halt := true, rewind } }
        let s1 := putGroup s g1
        if groupStopped s1 g1 then
          putGroup (leaveEngine s1 g1) { g1.snapshotted (getCore s1 g1.core) with
            state := .halted, stopReq := some { future := .none, since := s.clock, halt := true }
            strands := if rewind then g1.strands.map Strand.rewound else g1.strands }
        else s1)

/-- DEBUG_RESUME: the group goes on, and its context's slice is not charged for the halt. -/
def execDebugResume (gid : Nat) (s : State) : Host.Outcome State Fault Refusal :=
  .next (match getGroup s gid with
    | none => s
    | some g =>
      if g.state != .halted then s
      else
        let since := (g.stopReq.map fun r => r.since).getD s.clock
        let thaw := fun (k : Capstan) => { k with pageWait := none, walked := [], readyAt := s.clock }
        let s1 := putGroup s { g with state := .resident, stopReq := none, preempted := false, cap := g.cap.map thaw
                                      strands := g.strands.map fun st => st.resumed st.slot s.clock }
        match getCtx s1 g.ctx with
        | some c => putCtx s1 { c with sliceStart := c.sliceStart.map fun t => t + (s.clock - since) }
        | none => s1)

end Sys2Proof.Machine
end

