-- ==== Sys2Proof/Machine/Host.lean ====
section
/-! DEFINITION. The host, the pager, the control node and the security processor (R317, R325, R375, R376, R382, R432, R433,
R451 to R463). -/

namespace Sys2Proof.Machine

/-- Is the device up: has its boot been verified (R460, R463)? Register windows answer writes only then. -/
def State.up (s : State) : Bool := s.boot == 2

/-- A host write that changes a tenant's window, discarded before the device is up or for a tenant that does not exist. -/
def tenantWrite (s : State) (t : Nat) (f : Tenant → Tenant) : State :=
  if s.up && decide (t < Config.tenants) then putTenant s t (f (getTenant s t)) else s

/-! ### Queue descriptors (R325) -/

/-- QUEUE_TAIL_DOORBELL. -/
def execQueueTailDoorbell (tenant q : Nat) (tail : Word) (s : State) : Host.Outcome State Fault Refusal :=
  .next (
    let d := getQueue s tenant q
    if !s.up || Config.tenants ≤ tenant || 8 ≤ q then s
    else if 2 ^ d.log2 < (tail - d.head).toNat then stopQueue s tenant q 10
    else putQueue s tenant q { d with tail })

/-- QLOG2 within its limits. -/
def log2Ok (n : Nat) : Bool := decide (4 ≤ n) && decide (n ≤ 16)

/-- A write of W1: QLOG2 while EN is 0, PRIO, then EN checked against the QLOG2 just written. -/
def QDesc.configure (d : QDesc) (v : Nat) : QDesc :=
  let log2 := if !d.en && log2Ok (bits v 4 0) then bits v 4 0 else d.log2
  let d1 := { d with log2, prio := bits v 9 8 }
  if !tbit v 16 then { d1 with en := false }
  else if log2Ok log2 then { d1 with en := true, stopped := false, qerr := 0 }
  else d1

/-- QUEUE_CONFIG_WRITE: a write of W0, W1 or W2. -/
def execQueueConfigWrite (tenant q : Nat) (word : Fin 3) (v : DWord) (s : State) : Host.Outcome State Fault Refusal :=
  .next (
    let d := getQueue s tenant q
    if !s.up || Config.tenants ≤ tenant || 8 ≤ q then s
    else match word.val with
      | 0 => if d.en || v.toNat % 4096 ≠ 0 then s else putQueue s tenant q { d with base := v.toNat }
      | 1 => putQueue s tenant q (d.configure v.toNat)
      | _ => if d.en then s else putQueue s tenant q { d with head := BitVec.ofNat 32 v.toNat })

/-! ### Device memory (R317, R451, R457) -/

/-- May a tenant's host access n bytes at a physical address: do they lie within its window of one die? -/
def inDiewin (s : State) (t pa n : Nat) : Bool :=
  let die := bits pa 39 37
  let w := ((getTenant s t).diewin[die]?).getD (0, 0)
  let off := pa % 2 ^ 37
  decide (pa < 2 ^ 40) && decide (w.1.toNat * 2097152 ≤ off) && decide (off + n ≤ (w.1.toNat + w.2.toNat) * 2097152) &&
  decide (off + n ≤ 2 ^ 37)

/-- The bytes of a host write that fall in one line: a partial write to a poisoned line writes nothing, a whole line clears the
entry (R271). -/
def hostLine (s : State) (pa : Nat) (bs : List Byte) : State :=
  if bs.length = 128 then
    curePoison (writeHome s pa bs) (· == pa)
  else if isPoisoned s pa then meetPoison s pa else writeHome s pa bs

/-- HOST_MEMORY_WRITE. -/
def execHostMemoryWrite (tenant pa : Nat) (bytes : List Byte) (s : State) : Host.Outcome State Fault Refusal :=
  .next (if s.up && inDiewin s tenant pa bytes.length then
      (linePieces (bytes.length / 128 + 2) pa bytes.length).foldl (fun s p => hostLine s p.1 ((bytes.drop (p.1 - pa)).take p.2)) s
    else s)

/-- A byte as a host read finds it: at its home, or in HBM4E for the bulk window; a poisoned line's is a free value. -/
def hostByte (s : State) (bulk : Bool) (k pa : Nat) : Byte :=
  if isPoisoned s pa then Config.freeByte (s.free + k)
  else match if bulk then (l2Line s pa).bind fun l => l.old else none with
    | some old => old.getD (pa % 128) 0
    | none => readByte s.mem pa

/-- HOST_MEMORY_READ: outside the window every bit reads 1. A device that is not up does not answer (R460). -/
def execHostMemoryRead (tenant pa len : Nat) (bulk : Bool) (s : State) : Host.Outcome State Fault Refusal :=
  .next (if !s.up then s else
    let bs := if inDiewin s tenant pa len then (List.range len).map fun k => hostByte s bulk k (pa + k) else List.replicate len 0xFF
    { s with outbox := s.outbox ++ [.hostRead tenant (getTenant s tenant).hport pa bs], free := s.free + len })

/-! ### The pager (R375, R450, R454) -/

/-- PGDONE_WRITE: the request is resolved, and a gang that waits for it is ready. -/
def execPgdoneWrite (tenant : Nat) (number : Word) (s : State) : Host.Outcome State Fault Refusal :=
  .next (match (getTenant s tenant).pgopen.find? fun p => p.number == number.toNat with
    | none => s
    | some p =>
      let s1 := tenantWrite s tenant fun t => { t with pgopen := t.pgopen.filter fun x => x.number != p.number }
      let wake := fun (g : Group) =>
        if g.ctx == p.ctx && g.future == .pager p.number then { g with ready := g.ready.or (some s.clock) } else g
      if s.up then { s1 with groups := s1.groups.map wake } else s)

/-! ### Context commands (R376, R444, R455) -/

/-- The context of a tenant with a CTXID. -/
def ctxOf (s : State) (tenant ctxid : Nat) : Option Ctx :=
  s.ctxs.find? fun c => c.tenant == tenant && c.ctxid.toNat == ctxid && c.ended.isNone

/-- CTXCMD_INVALIDATE: discarded while a command is busy, and for a context that is not the tenant's. -/
def execCtxcmdInvalidate (tenant ctxid : Nat) (s : State) : Host.Outcome State Fault Refusal :=
  .next (match ctxOf s tenant ctxid with
    | none => s
    | some c => tenantWrite s tenant fun t => if t.cmdbusy.isSome then t else { t with cmdbusy := some c.id })

/-- Does a range of n bytes meet the range of an invalidation? -/
def inRange (t : Tenant) (a n : Nat) : Bool :=
  decide (t.invhi.toNat < t.invlo.toNat) || (decide (t.invlo.toNat < a + n) && decide (a ≤ t.invhi.toNat))

/-- Does a TLB entry fall under an invalidation? -/
def TlbEntry.hit (e : TlbEntry) (t : Tenant) (ctx : Nat) : Bool :=
  e.ctx == ctx && inRange t e.base (match e.leaf with
    | .leaf _ true _ _ _ _ _ => 2097152
    | _ => 65536)

/-- Has an agent an access in a range that has been translated and not been performed? -/
def accessOpen (t : Tenant) (l : List Entry) : Bool := l.any fun e => e.parts.any fun p => !p.done && inRange t p.addr (max 1 p.len)

/-- Is an access of the context that used an old translation still to be performed? -/
def usesOld (s : State) (t : Tenant) (ctx : Nat) : Bool :=
  s.groups.any fun g => g.ctx == ctx && ((g.strands.any fun st => accessOpen t st.acc) || g.cap.any fun k => accessOpen t k.acc)

/-- INVALIDATION_COMPLETE. -/
def execInvalidationComplete (tenant : Nat) (s : State) : Host.Outcome State Fault Refusal :=
  .next (
    let t := getTenant s tenant
    match t.cmdbusy with
    | none => s
    | some ctx =>
      if usesOld s t ctx then s
      else
        let forget := fun (l : List (Nat × WalkResult)) => l.filter fun e => !inRange t (e.1 * 65536) 65536
        let clean := fun (g : Group) => if g.ctx != ctx then g else
          { g with strands := g.strands.map fun st => { st with walked := forget st.walked }
                   cap := g.cap.map fun k => { k with walked := forget k.walked } }
        let drop := fun (co : Core) => { co with tlb := co.tlb.filter fun e => !e.hit t ctx }
        putTenant { s with cores := s.cores.map fun e => (e.1, drop e.2), groups := s.groups.map clean } tenant { t with cmdbusy := none })

/-- CTXCMD_WATCHDOG: the context ends. -/
def execCtxcmdWatchdog (tenant ctxid : Nat) (s : State) : Host.Outcome State Fault Refusal :=
  .next (match ctxOf s tenant ctxid with
    | none => s
    | some c => if !s.up || (getTenant s tenant).cmdbusy.isSome then s
                else fatalEnd s c { cause := 0x19, pc := 0, rpc := 0 } false 0 0)

/-! ### Interrupts and device events (R453, R456) -/

/-- IRQPEND_CLEAR. -/
def execIrqpendClear (tenant : Nat) (bits : DWord) (s : State) : Host.Outcome State Fault Refusal :=
  .next (tenantWrite s tenant fun t => { t with irqpend := t.irqpend &&& ~~~bits })

/-- IRQMASK_WRITE: a pending vector that becomes unmasked sends its message. -/
def execIrqmaskWrite (tenant : Nat) (v : DWord) (s : State) : Host.Outcome State Fault Refusal :=
  .next (
    let t := getTenant s tenant
    let s1 := tenantWrite s tenant fun t => { t with irqmask := v }
    if s.up then
      ((List.range 64).filter fun k => t.irqmask.getLsbD k && !v.getLsbD k && t.irqpend.getLsbD k).foldl (fun s k => sendIrq s tenant k) s1
    else s)

/-- EVTPEND_CLEAR. -/
def execEvtpendClear (tenant : Nat) (bits : BitVec 3) (s : State) : Host.Outcome State Fault Refusal :=
  .next (tenantWrite s tenant fun t => { t with evtpend := t.evtpend &&& ~~~bits })

/-! ### KV registers (R382) -/

/-- The width of a KV register. -/
def kvWidth (ix : Nat) : Nat := match ix with
  | 1 => 25 | 3 => 31 | 5 => 5 | 6 => 31 | _ => 64

/-- Has a tenant a resident group? -/
def tenantResident (s : State) (t : Nat) : Bool :=
  s.groups.any fun g => g.state != .saved && (getCtx s g.ctx).any fun c => c.tenant == t

/-- KV_REGISTER_WRITE. -/
def execKvRegisterWrite (tenant : Nat) (ix : Fin 7) (v : DWord) (s : State) : Host.Outcome State Fault Refusal :=
  .next (if tenantResident s tenant then s
    else tenantWrite s tenant fun t => { t with kv := t.kv.set ix.val (BitVec.ofNat 64 (v.toNat % 2 ^ kvWidth ix.val)) })

/-! ### Attestation (R460, R461) -/

/-- The measurement log in bytes. -/
def logBytes (l : List Measurement) : List Byte := l.flatMap fun m => leBytes 4 m.image ++ leBytes 4 m.version.toNat ++ leBytes 64 m.digest.toNat

/-- A report's bytes 0 to 195. -/
def reportHead (s : State) (t : Nat) : List Byte :=
  ((List.range 64).map Config.identityKey) ++ shake256 (logBytes s.log) 64 ++
  leBytes 32 (getTenant s t).nonce.toNat ++ leBytes 4 t ++ (List.range 32).map Config.serialNumber

/-- A report: its head and the signature over it. -/
def reportBytes (s : State) (t : Nat) : List Byte :=
  reportHead s t ++ (List.range 29792).map fun k => Config.reportSignature (reportHead s t) k

/-- ATTESTATION_REQUEST: an address that is not a multiple of 64 starts nothing. A request that has not been answered is
replaced. -/
def execAttestationRequest (tenant : Nat) (addr : DWord) (s : State) : Host.Outcome State Fault Refusal :=
  .next (tenantWrite s tenant fun t => if addr.toNat % 64 ≠ 0 then t else { t with attaddr := addr.toNat, attwait := true })

/-- ATTESTATION_REPORT: the report goes to host memory, and EVTVEC is raised. -/
def execAttestationReport (tenant : Nat) (s : State) : Host.Outcome State Fault Refusal :=
  .next (
    let t := getTenant s tenant
    if !t.attwait then s
    else
      let bs := reportBytes s tenant
      let s1 := putTenant s tenant { t with attwait := false }
      raiseIrq { s1 with mem := writeBytes s1.mem (hostPa t.attaddr) bs, outbox := s1.outbox ++ [.report tenant t.hport t.attaddr bs] } tenant t.evtvec)

/-! ### The management window and the other registers (R432, R453, R457) -/

/-- CECNT_CLEAR. -/
def execCecntClear (die : Nat) (s : State) : Host.Outcome State Fault Refusal :=
  .next { s with cecnt := s.cecnt.setIfInBounds die 0 }

/-- PERFSEL_WRITE: the counters of the core are cleared. On the Y2-S a core number that is never used keeps its value too: DESIGN CHOICE
(log 145), unsafe for a window read of one. -/
def execPerfselWrite (core : Nat) (v : BitVec 128) (s : State) : Host.Outcome State Fault Refusal :=
  .next (if s.up && decide (core < 1024) then putCore s core { getCore s core with perfsel := v, perf := Vector.replicate 16 0 } else s)

/-- A write to the management window: TEN_EN and HPORT, DIEWIN, CECNT, PWLIM. On the Y2-S, PWLIM of a core number that is never used
(R13) is kept: DESIGN CHOICE (log 145). -/
def manageWrite (s : State) (off : Nat) (v : DWord) : State :=
  if off < 0x80 then
    if off % 8 ≠ 0 then s
    else tenantWrite s (off / 8) fun t =>
      { t with en := v.getLsbD 0, hport := if t.en || s.variant = .y2s then t.hport else b2n (v.getLsbD 1) }
  else if 0x100 ≤ off ∧ off < 0x900 then
    let die := (off - 0x100) % 128 / 16
    if off % 8 ≠ 0 then s
    else tenantWrite s ((off - 0x100) / 128) fun t =>
      let w := (t.diewin[die]?).getD (0, 0)
      { t with diewin := t.diewin.setIfInBounds die (if off % 16 = 0 then (v, w.2) else (w.1, v)) }
  else if 0x1000 ≤ off ∧ off < 0x1040 then
    if off % 8 ≠ 0 then s else { s with cecnt := s.cecnt.setIfInBounds ((off - 0x1000) / 8) 0 }
  else if 0x2000 ≤ off ∧ off < 0x3000 then
    if off % 4 ≠ 0 then s
    else putCore s ((off - 0x2000) / 4) { getCore s ((off - 0x2000) / 4) with pwlim := BitVec.ofNat 32 v.toNat }
  else s

/-- A write of one of the fields of a tenant's window that have no row of their own. -/
def Tenant.write (t : Tenant) (off : Nat) (v : DWord) : Tenant :=
  let n := v.toNat
  if off = 0x140 then (if n % 8 ≠ 0 ∨ 2 ^ 40 ≤ n then t else { t with irqaddr := n })
  else if off = 0x158 then { t with evtvec := n % 64 }
  else if off = 0x180 then (if n % 4096 ≠ 0 ∨ t.pglog2 ≠ 0 then t else { t with pgbase := n })
  else if off = 0x188 then (if bits n 4 0 = 0 || log2Ok (bits n 4 0) then { t with pglog2 := bits n 4 0 } else t)
  else if off = 0x198 then { t with pghead := BitVec.ofNat 32 n }
  else if off = 0x1C8 then { t with invlo := v }
  else if off = 0x1D0 then { t with invhi := v }
  else if off = 0x200 then { t with nonce := t.nonce.extractLsb' 64 192 ++ v }
  else if off = 0x208 then { t with nonce := t.nonce.extractLsb' 128 128 ++ v ++ t.nonce.extractLsb' 0 64 }
  else if off = 0x210 then { t with nonce := t.nonce.extractLsb' 192 64 ++ v ++ t.nonce.extractLsb' 0 128 }
  else if off = 0x218 then { t with nonce := v ++ t.nonce.extractLsb' 0 192 }
  else t

/-- HOST_REGISTER_WRITE: a field that is RO, or a reserved offset, takes no write. -/
def execHostRegisterWrite (tenant : Option Nat) (off : Nat) (v : DWord) (s : State) : Host.Outcome State Fault Refusal :=
  .next (match tenant with
    | none => if s.up then manageWrite s off v else s
    | some t => tenantWrite s t fun x => x.write off v)

/-! ### Reads of the windows (R325, R382, R453, R457) -/

/-- Word n of a queue descriptor as the host reads it (R325). -/
def QDesc.word (d : QDesc) (n : Nat) : Nat := match n with
  | 0 => d.base
  | 1 => d.log2 + d.prio % 4 * 2 ^ 8 + b2n d.en * 2 ^ 16 + b2n d.stopped * 2 ^ 17 + d.qerr * 2 ^ 24
  | 2 => d.head.toNat
  | _ => d.tail.toNat

/-- The 64-bit field at an offset of a tenant's window: zero at a reserved offset, and where a field is only written (R453). -/
def Tenant.read (t : Tenant) (off : Nat) : Nat :=
  if off % 8 ≠ 0 then 0
  else if off < 0x100 then ((t.q[off / 32]?).getD {}).word (off % 32 / 8)
  else if 0x100 ≤ off ∧ off < 0x138 then ((t.kv[(off - 0x100) / 8]?).getD 0).toNat
  else match off with
    | 0x140 => t.irqaddr
    | 0x148 => t.irqpend.toNat
    | 0x150 => t.irqmask.toNat
    | 0x158 => t.evtvec
    | 0x160 => t.evtpend.toNat
    | 0x168 => t.lastend.toNat % 2 ^ 40
    | 0x180 => t.pgbase
    | 0x188 => t.pglog2
    | 0x190 => t.pgtail.toNat
    | 0x198 => t.pghead.toNat
    | 0x1C0 => b2n t.cmdbusy.isSome * 2 ^ 36
    | 0x1C8 => t.invlo.toNat
    | 0x1D0 => t.invhi.toNat
    | 0x200 | 0x208 | 0x210 | 0x218 => bits t.nonce.toNat ((off - 0x200) * 8 + 63) ((off - 0x200) * 8)
    | 0x220 => t.attaddr
    | _ => 0

/-- The 64-bit field at an offset of the management window (R457); core numbers never used on the Y2-S read what was written
(log 145). -/
def manageRead (s : State) (off : Nat) : Nat :=
  if off % 8 ≠ 0 then 0
  else if off < 0x80 then b2n (getTenant s (off / 8)).en + (getTenant s (off / 8)).hport * 2
  else if 0x100 ≤ off ∧ off < 0x900 then
    let w := ((getTenant s ((off - 0x100) / 128)).diewin[(off - 0x100) % 128 / 16]?).getD (0, 0)
    (if off % 16 = 0 then w.1 else w.2).toNat
  else if 0x1000 ≤ off ∧ off < 0x1040 then ((s.cecnt[(off - 0x1000) / 8]?).getD 0).toNat
  else if 0x2000 ≤ off ∧ off < 0x3000 then
    (getCore s ((off - 0x2000) / 4)).pwlim.toNat + (getCore s ((off - 0x2000) / 4 + 1)).pwlim.toNat * 2 ^ 32
  else if 0x4000 ≤ off ∧ off < 0x8000 then
    let w := (getCore s ((off - 0x4000) / 16)).perfsel.toNat
    if off % 16 = 0 then w % 2 ^ 64 else w / 2 ^ 64
  else if 0x8000 ≤ off ∧ off < 0x8040 then ((s.hwlink[(off - 0x8000) / 8]?).getD 0).toNat
  else 0

/-- Does the device answer a read of a register window? Before it is up, only one of the management window's status registers
once the boot has stopped: CECNT and HWLINK, the fields that R457 gives as RO (R460, R463; log 125). -/
def State.answers (s : State) (tenant : Option Nat) (off : Nat) : Bool :=
  s.up || (s.boot == 1 && tenant.isNone && ((decide (0x1000 ≤ off) && decide (off < 0x1040)) || (decide (0x8000 ≤ off) && decide (off < 0x8040))))

/-- What a host read of a register window gives, where the device answers; a read changes nothing. `tenant` is none for the
management window. -/
def windowRead (s : State) (tenant : Option Nat) (off : Nat) : Option Nat :=
  if s.answers tenant off then some (match tenant with
    | some t => (getTenant s t).read off
    | none => manageRead s off)
  else none

/-! ### Power (R433, R462) -/

/-- A core's effective limit; 0 disables the governor. -/
def powerLimit (s : State) (co : Core) : Nat :=
  if s.trip then (if co.pwlim = 0 then 600 else min co.pwlim.toNat 600) else co.pwlim.toNat

/-- The present clock is a power-governor freeze clock of a core where the last 64 weights exceed its limit. -/
def governorFreeze (s : State) (co : Core) : Core :=
  let l := powerLimit s co
  if !co.frozen && l ≠ 0 && decide (l < (co.weights.take 64).foldl (· + ·) 0) then
    perfCount (perfCount { co with frozen := true, pwfrz := co.pwfrz + 1 } 3 1) 4 1
  else co

/-- Has anything issued on a core in the present clock? A freeze is of a whole clock, in which nothing issues (R433). -/
def coreIssued (s : State) (core : Nat) : Bool :=
  s.groups.any fun g => g.core == core && g.state == .resident &&
    ((g.strands.any fun st => st.issuedAt == some s.clock) || g.cap.any fun k => k.vcAt == some s.clock || k.slotAt == some s.clock)

/-- POWER_GOVERNOR_FREEZE. -/
def execPowerGovernorFreeze (core : Nat) (s : State) : Host.Outcome State Fault Refusal :=
  .next (if (getCore s core).weight != 0 || coreIssued s core then s else putCore s core (governorFreeze s (getCore s core)))

/-- THERMAL_TRIP. -/
def execThermalTrip (s : State) : Host.Outcome State Fault Refusal := .next { s with trip := true }

/-- THERMAL_TRIP_CLEAR. -/
def execThermalTripClear (s : State) : Host.Outcome State Fault Refusal := .next { s with trip := false }

/-! ### Reset (R460, R463) -/

/-- The digest of an image (R460). -/
def imageDigest (i : Image) : BitVec 512 := BitVec.ofNat 512 (leNat (shake256 i.bytes 64))

/-- The images measured in order, up to the first that fails its signature: the log, and whether all passed. -/
def measure : Nat → List Image → List Measurement × Bool
  | _, [] => ([], true)
  | n, i :: is =>
      if signatureHolds carralynKey i.bytes i.signature then
        let r := measure (n + 1) is
        ({ image := n, version := i.version, digest := imageDigest i } :: r.1, r.2)
      else ([], false)

/-- HBM4E as it stands once the L2s are invalidated: what only a dirty line held is lost. -/
def hbmBytes (s : State) : Memory := s.l2.foldl (fun m l => match l.old with
  | some bs => writeBytes m l.pa bs
  | none => m) s.mem

/-- DEVICE_RESET: measured boot of the four images, then the L1s, L2s and poison tables are empty, every window is at its reset
values, and the Hawser links train. A failed verification leaves the device down. -/
def execDeviceReset (images : List Image) (s : State) : Host.Outcome State Fault Refusal :=
  let r := measure 1 (images.take 4)
  let ok := r.2 && images.length == 4
  .next { State.reset with
    variant := s.variant, boot := if ok then 2 else 1, log := r.1, mem := hbmBytes s
    hwlink := Vector.replicate 8 (if ok then 1 else 0), agenda := s.agenda, free := s.free, outbox := s.outbox }

end Sys2Proof.Machine
end

