-- ==== Sys2Proof/Machine/Dispatch.lean ====
section
/-! DEFINITION. The one dispatch: an arm for each constructor of Instr, each a direct call of its meaning. -/

namespace Sys2Proof.Machine

open Sys2Proof

def exec (i : Instr) (s : State) : Host.Outcome State Fault Refusal :=
  match i with
  | .nop h => Sys2Proof.Machine.execNop h s
  | .iadd h f d a b na nb sat => Sys2Proof.Machine.execIadd h f d a b na nb sat s
  | .isub h f d a b sat => Sys2Proof.Machine.execIsub h f d a b sat s
  | .imul h f d a b sat => Sys2Proof.Machine.execImul h f d a b sat s
  | .imulh h f d a b => Sys2Proof.Machine.execImulh h f d a b s
  | .imad h f d a b c sat => Sys2Proof.Machine.execImad h f d a b c sat s
  | .imin h f d a b => Sys2Proof.Machine.execImin h f d a b s
  | .imax h f d a b => Sys2Proof.Machine.execImax h f d a b s
  | .band h d a b => Sys2Proof.Machine.execBand h d a b s
  | .bor h d a b => Sys2Proof.Machine.execBor h d a b s
  | .bxor h d a b => Sys2Proof.Machine.execBxor h d a b s
  | .blut h d a b c tab => Sys2Proof.Machine.execBlut h d a b c tab s
  | .shl h d a b => Sys2Proof.Machine.execShl h d a b s
  | .shr h d a b => Sys2Proof.Machine.execShr h d a b s
  | .sar h d a b => Sys2Proof.Machine.execSar h d a b s
  | .shd h left md d a b c => Sys2Proof.Machine.execShd h left md d a b c s
  | .popc h d a => Sys2Proof.Machine.execPopc h d a s
  | .clz h d a => Sys2Proof.Machine.execClz h d a s
  | .brev h d a => Sys2Proof.Machine.execBrev h d a s
  | .bfe h f d a b => Sys2Proof.Machine.execBfe h f d a b s
  | .bfi h d a b c => Sys2Proof.Machine.execBfi h d a b c s
  | .isetp h f cmp pd a b comb => Sys2Proof.Machine.execIsetp h f cmp pd a b comb s
  | .iadd64 h d a b nb => Sys2Proof.Machine.execIadd64 h d a b nb s
  | .lea h u d a b sh => Sys2Proof.Machine.execLea h u d a b sh s
  | .idp4 h f mix sat d a b c => Sys2Proof.Machine.execIdp4 h f mix sat d a b c s
  | .mov h f d b => Sys2Proof.Machine.execMov h f d b s
  | .sel h f d a b pc neg => Sys2Proof.Machine.execSel h f d a b pc neg s
  | .shfl h mode d a b logw => Sys2Proof.Machine.execShfl h mode d a b logw s
  | .vote h mode pd pa neg => Sys2Proof.Machine.execVote h mode pd pa neg s
  | .ballot h d pa neg => Sys2Proof.Machine.execBallot h d pa neg s
  | .rdspec h d name => Sys2Proof.Machine.execRdspec h d name s
  | .emrd h live sd => Sys2Proof.Machine.execEmrd h live sd s
  | .emwr h b => Sys2Proof.Machine.execEmwr h b s
  | .prmov h op => Sys2Proof.Machine.execPrmov h op s
  | .ualu h f op sat sd sa b => Sys2Proof.Machine.execUalu h f op sat sd sa b s
  | .umov h sd a b => Sys2Proof.Machine.execUmov h sd a b s
  | .fadd h f mode m d a b => Sys2Proof.Machine.execFadd h f mode m d a b s
  | .fmul h f mode m d a b => Sys2Proof.Machine.execFmul h f mode m d a b s
  | .ffma h f mode m d a b c => Sys2Proof.Machine.execFfma h f mode m d a b c s
  | .fmin h f m d a b => Sys2Proof.Machine.execFmin h f m d a b s
  | .fmax h f m d a b => Sys2Proof.Machine.execFmax h f m d a b s
  | .fdiv h f mode m d a b => Sys2Proof.Machine.execFdiv h f mode m d a b s
  | .fsetp h f cmp m pd a b comb elem1 => Sys2Proof.Machine.execFsetp h f cmp m pd a b comb elem1 s
  | .frcp h f mode m d a => Sys2Proof.Machine.execFrcp h f mode m d a s
  | .fsqrt h f mode m d a => Sys2Proof.Machine.execFsqrt h f mode m d a s
  | .frsq h f mode m d a => Sys2Proof.Machine.execFrsq h f mode m d a s
  | .fexp2 h f mode m d a => Sys2Proof.Machine.execFexp2 h f mode m d a s
  | .flog2 h f mode m d a => Sys2Proof.Machine.execFlog2 h f mode m d a s
  | .fsin h f mode m d a => Sys2Proof.Machine.execFsin h f mode m d a s
  | .fcos h f mode m d a => Sys2Proof.Machine.execFcos h f mode m d a s
  | .ftanh h f mode m d a => Sys2Proof.Machine.execFtanh h f mode m d a s
  | .fclass h f d a => Sys2Proof.Machine.execFclass h f d a s
  | .fdot2 h f mode m d a b c => Sys2Proof.Machine.execFdot2 h f mode m d a b c s
  | .cvt h dst src mode m d a part => Sys2Proof.Machine.execCvt h dst src mode m d a part s
  | .qnt h f mode sat d a b part => Sys2Proof.Machine.execQnt h f mode sat d a b part s
  | .dqnt h f mode d a b part => Sys2Proof.Machine.execDqnt h f mode d a b part s
  | .angrot h op d a b c => Sys2Proof.Machine.execAngrot h op d a b c s
  | .nanpl h f d a elem1 => Sys2Proof.Machine.execNanpl h f d a elem1 s
  | .sigq h f sel pd a b comb => Sys2Proof.Machine.execSigq h f sel pd a b comb s
  | .sigget h f d a k => Sys2Proof.Machine.execSigget h f d a k s
  | .sigset h f d b k => Sys2Proof.Machine.execSigset h f d b k s
  | .sigmin h f sd a => Sys2Proof.Machine.execSigmin h f sd a s
  | .ld h w sx cg d base idx disp => Sys2Proof.Machine.execLd h w sx cg d base idx disp s
  | .st h w d base idx disp => Sys2Proof.Machine.execSt h w d base idx disp s
  | .lds h w sx d base idx disp => Sys2Proof.Machine.execLds h w sx d base idx disp s
  | .sts h w d base idx disp => Sys2Proof.Machine.execSts h w d base idx disp s
  | .ldt h w cg d base idx disp => Sys2Proof.Machine.execLdt h w cg d base idx disp s
  | .stt h w d base idx disp => Sys2Proof.Machine.execStt h w d base idx disp s
  | .atom h op f ord sc d base idx c => Sys2Proof.Machine.execAtom h op f ord sc d base idx c s
  | .cas h wide ord sc d base idx c => Sys2Proof.Machine.execCas h wide ord sc d base idx c s
  | .atoms h op f ord d base idx c => Sys2Proof.Machine.execAtoms h op f ord d base idx c s
  | .cass h wide ord d base idx c => Sys2Proof.Machine.execCass h wide ord d base idx c s
  | .red h op f ord sc base idx c => Sys2Proof.Machine.execRed h op f ord sc base idx c s
  | .pref h l2 base idx => Sys2Proof.Machine.execPref h l2 base idx s
  | .prefr h a len => Sys2Proof.Machine.execPrefr h a len s
  | .cmo h op level a len => Sys2Proof.Machine.execCmo h op level a len s
  | .ldh h w d a pos disp => Sys2Proof.Machine.execLdh h w d a pos disp s
  | .mark h => Sys2Proof.Machine.execMark h s
  | .fence h sc => Sys2Proof.Machine.execFence h sc s
  | .barSync h b n => Sys2Proof.Machine.execBarSync h b n s
  | .barArrive h b n => Sys2Proof.Machine.execBarArrive h b n s
  | .clarm h pd c count => Sys2Proof.Machine.execClarm h pd c count s
  | .clarmFree h pd c => Sys2Proof.Machine.execClarmFree h pd c s
  | .clarv h gang c pos n => Sys2Proof.Machine.execClarv h gang c pos n s
  | .clwait h gang pd c parity => Sys2Proof.Machine.execClwait h gang pd c parity s
  | .waitp h path v => Sys2Proof.Machine.execWaitp h path v s
  | .give h q => Sys2Proof.Machine.execGive h q s
  | .take h q => Sys2Proof.Machine.execTake h q s
  | .tqry h slot d b => Sys2Proof.Machine.execTqry h slot d b s
  | .rgnbeg y => Sys2Proof.Machine.execRgnbeg y s
  | .rgnend y => Sys2Proof.Machine.execRgnend y s
  | .tick h => Sys2Proof.Machine.execTick h s
  | .copy h path a => Sys2Proof.Machine.execCopy h path a s
  | .copyg h path a => Sys2Proof.Machine.execCopyg h path a s
  | .launch h pd a => Sys2Proof.Machine.execLaunch h pd a s
  | .join h pd a v => Sys2Proof.Machine.execJoin h pd a v s
  | .coll h f kind sd a m => Sys2Proof.Machine.execColl h f kind sd a m s
  | .tkstat h sd a ticket => Sys2Proof.Machine.execTkstat h sd a ticket s
  | .tkstatWait h sd a ticket => Sys2Proof.Machine.execTkstatWait h sd a ticket s
  | .tkreform h pd a m => Sys2Proof.Machine.execTkreform h pd a m s
  | .htrans h d a pos => Sys2Proof.Machine.execHtrans h d a pos s
  | .kvapp h sx a => Sys2Proof.Machine.execKvapp h sx a s
  | .kvfork h sx a m => Sys2Proof.Machine.execKvfork h sx a m s
  | .kvrel h a => Sys2Proof.Machine.execKvrel h a s
  | .kvsetMap h sx a p => Sys2Proof.Machine.execKvsetMap h sx a p s
  | .kvsetNew h sx a p => Sys2Proof.Machine.execKvsetNew h sx a p s
  | .kvsetAbsent h a p => Sys2Proof.Machine.execKvsetAbsent h a p s
  | .kvmove h sx a => Sys2Proof.Machine.execKvmove h sx a s
  | .belayAdd h pd a len => Sys2Proof.Machine.execBelayAdd h pd a len s
  | .belayDrop h pd a len => Sys2Proof.Machine.execBelayDrop h pd a len s
  | .retireRcp h pd a len => Sys2Proof.Machine.execRetireRcp h pd a len s
  | .retireBly h pd a len => Sys2Proof.Machine.execRetireBly h pd a len s
  | .rcpqState h d a => Sys2Proof.Machine.execRcpqState h d a s
  | .rcpqStep h d a => Sys2Proof.Machine.execRcpqStep h d a s
  | .sched h pd a count => Sys2Proof.Machine.execSched h pd a count s
  | .sacc h op a b => Sys2Proof.Machine.execSacc h op a b s
  | .topk h sa b => Sys2Proof.Machine.execTopk h sa b s
  | .cntrd h sd id => Sys2Proof.Machine.execCntrd h sd id s
  | .cntclr h id => Sys2Proof.Machine.execCntclr h id s
  | .bra h off => Sys2Proof.Machine.execBra h off s
  | .brez h off => Sys2Proof.Machine.execBrez h off s
  | .brx h n => Sys2Proof.Machine.execBrx h n s
  | .call h d off => Sys2Proof.Machine.execCall h d off s
  | .ret h a => Sys2Proof.Machine.execRet h a s
  | .exit h => Sys2Proof.Machine.execExit h s
  | .empush h sd pn neg => Sys2Proof.Machine.execEmpush h sd pn neg s
  | .emflip h sd => Sys2Proof.Machine.execEmflip h sd s
  | .empop h sd => Sys2Proof.Machine.execEmpop h sd s
  | .trap h code => Sys2Proof.Machine.execTrap h code s
  | .bkpt h code => Sys2Proof.Machine.execBkpt h code s
  | .tret h => Sys2Proof.Machine.execTret h s
  | .tretSkip h => Sys2Proof.Machine.execTretSkip h s
  | .tretEmu h a => Sys2Proof.Machine.execTretEmu h a s
  | .csrr h d csr => Sys2Proof.Machine.execCsrr h d csr s
  | .csrw h csr b => Sys2Proof.Machine.execCsrw h csr b s
  | .extensionOpcode w0 w1 => Sys2Proof.Machine.execExtensionOpcode w0 w1 s
  | .bundleIssue b => Sys2Proof.Machine.execBundleIssue b s
  | .exposedResultLand gid seq => Sys2Proof.Machine.execExposedResultLand gid seq s
  | .sldWriteLand gid entry => Sys2Proof.Machine.execSldWriteLand gid entry s
  | .mmaStart gid => Sys2Proof.Machine.execMmaStart gid s
  | .scoreboardReadRelease gid seq => Sys2Proof.Machine.execScoreboardReadRelease gid seq s
  | .mmaComplete gid => Sys2Proof.Machine.execMmaComplete gid s
  | .coreFreezeEnd gid => Sys2Proof.Machine.execCoreFreezeEnd gid s
  | .strandResultLand gid j => Sys2Proof.Machine.execStrandResultLand gid j s
  | .takeComplete gid who => Sys2Proof.Machine.execTakeComplete gid who s
  | .clwaitComplete gid who => Sys2Proof.Machine.execClwaitComplete gid who s
  | .waitpComplete gid who => Sys2Proof.Machine.execWaitpComplete gid who s
  | .joinComplete gid j => Sys2Proof.Machine.execJoinComplete gid j s
  | .tkstatWaitComplete gid j => Sys2Proof.Machine.execTkstatWaitComplete gid j s
  | .launchAccept gid j => Sys2Proof.Machine.execLaunchAccept gid j s
  | .belayTakeEffect gid j => Sys2Proof.Machine.execBelayTakeEffect gid j s
  | .schedTakeEffect gid j => Sys2Proof.Machine.execSchedTakeEffect gid j s
  | .stepPropagate ctx => Sys2Proof.Machine.execStepPropagate ctx s
  | .memoryQueueSend ag store => Sys2Proof.Machine.execMemoryQueueSend ag store s
  | .memoryAccessPerform ag seq part => Sys2Proof.Machine.execMemoryAccessPerform ag seq part s
  | .pageWalkComplete core ix => Sys2Proof.Machine.execPageWalkComplete core ix s
  | .l2Fill ctx va pa newStep newSched => Sys2Proof.Machine.execL2Fill ctx va pa newStep newSched s
  | .eccCorrectableError die => Sys2Proof.Machine.execEccCorrectableError die s
  | .eccUncorrectableError place => Sys2Proof.Machine.execEccUncorrectableError place s
  | .spliceBuildStart ctx va by_ => Sys2Proof.Machine.execSpliceBuildStart ctx va by_ s
  | .spliceBuildAdmit ctx va => Sys2Proof.Machine.execSpliceBuildAdmit ctx va s
  | .spliceChainAbort chain => Sys2Proof.Machine.execSpliceChainAbort chain s
  | .strandTrapEntry gid j => Sys2Proof.Machine.execStrandTrapEntry gid j s
  | .capstanTrap gid => Sys2Proof.Machine.execCapstanTrap gid s
  | .capstanTrapDelivery gid => Sys2Proof.Machine.execCapstanTrapDelivery gid s
  | .debugHalt gid => Sys2Proof.Machine.execDebugHalt gid s
  | .debugResume gid => Sys2Proof.Machine.execDebugResume gid s
  | .queueTailDoorbell tenant q tail => Sys2Proof.Machine.execQueueTailDoorbell tenant q tail s
  | .queueConfigWrite tenant q word v => Sys2Proof.Machine.execQueueConfigWrite tenant q word v s
  | .distributorRecordRead tenant q => Sys2Proof.Machine.execDistributorRecordRead tenant q s
  | .dependencePoll grid => Sys2Proof.Machine.execDependencePoll grid s
  | .gridFetchComplete grid => Sys2Proof.Machine.execGridFetchComplete grid s
  | .placementPass => Sys2Proof.Machine.execPlacementPass s
  | .groupEnd gid => Sys2Proof.Machine.execGroupEnd gid s
  | .gridCompletionStep grid => Sys2Proof.Machine.execGridCompletionStep grid s
  | .timeSliceExpiry ctx => Sys2Proof.Machine.execTimeSliceExpiry ctx s
  | .preemption gid => Sys2Proof.Machine.execPreemption gid s
  | .joinSwapOut gid j => Sys2Proof.Machine.execJoinSwapOut gid j s
  | .waiterConversion gid => Sys2Proof.Machine.execWaiterConversion gid s
  | .conversionRetry gid => Sys2Proof.Machine.execConversionRetry gid s
  | .pregraceExpiry gid => Sys2Proof.Machine.execPregraceExpiry gid s
  | .groupResume gid => Sys2Proof.Machine.execGroupResume gid s
  | .snapshotEntryLand gid seq => Sys2Proof.Machine.execSnapshotEntryLand gid seq s
  | .cleatArrival core cleat => Sys2Proof.Machine.execCleatArrival core cleat s
  | .barPhaseComplete gid b => Sys2Proof.Machine.execBarPhaseComplete gid b s
  | .powerGovernorFreeze core => Sys2Proof.Machine.execPowerGovernorFreeze core s
  | .windlassCopyStart core ch => Sys2Proof.Machine.execWindlassCopyStart core ch s
  | .windlassCopyComplete core ch => Sys2Proof.Machine.execWindlassCopyComplete core ch s
  | .fabricWriteReceive tenant fjob va bytes => Sys2Proof.Machine.execFabricWriteReceive tenant fjob va bytes s
  | .fabricWriteReport core ch refusedAt => Sys2Proof.Machine.execFabricWriteReport core ch refusedAt s
  | .collDataReceive tackle msg => Sys2Proof.Machine.execCollDataReceive tackle msg s
  | .collComplete tackle seq => Sys2Proof.Machine.execCollComplete tackle seq s
  | .collTimeout tackle => Sys2Proof.Machine.execCollTimeout tackle s
  | .hawserAbortReceive tackle gen crank ecode => Sys2Proof.Machine.execHawserAbortReceive tackle gen crank ecode s
  | .hawserReformReceive tackle gen rank hash => Sys2Proof.Machine.execHawserReformReceive tackle gen rank hash s
  | .tkreformComplete gid j => Sys2Proof.Machine.execTkreformComplete gid j s
  | .hawserLinkFail port => Sys2Proof.Machine.execHawserLinkFail port s
  | .hostMemoryWrite tenant pa bytes => Sys2Proof.Machine.execHostMemoryWrite tenant pa bytes s
  | .hostMemoryRead tenant pa len bulk => Sys2Proof.Machine.execHostMemoryRead tenant pa len bulk s
  | .pgdoneWrite tenant number => Sys2Proof.Machine.execPgdoneWrite tenant number s
  | .ctxcmdInvalidate tenant ctxid => Sys2Proof.Machine.execCtxcmdInvalidate tenant ctxid s
  | .invalidationComplete tenant => Sys2Proof.Machine.execInvalidationComplete tenant s
  | .ctxcmdWatchdog tenant ctxid => Sys2Proof.Machine.execCtxcmdWatchdog tenant ctxid s
  | .irqpendClear tenant bits => Sys2Proof.Machine.execIrqpendClear tenant bits s
  | .irqmaskWrite tenant v => Sys2Proof.Machine.execIrqmaskWrite tenant v s
  | .evtpendClear tenant bits => Sys2Proof.Machine.execEvtpendClear tenant bits s
  | .kvRegisterWrite tenant ix v => Sys2Proof.Machine.execKvRegisterWrite tenant ix v s
  | .attestationRequest tenant addr => Sys2Proof.Machine.execAttestationRequest tenant addr s
  | .attestationReport tenant => Sys2Proof.Machine.execAttestationReport tenant s
  | .cecntClear die => Sys2Proof.Machine.execCecntClear die s
  | .perfselWrite core v => Sys2Proof.Machine.execPerfselWrite core v s
  | .hostRegisterWrite tenant off v => Sys2Proof.Machine.execHostRegisterWrite tenant off v s
  | .thermalTrip => Sys2Proof.Machine.execThermalTrip s
  | .thermalTripClear => Sys2Proof.Machine.execThermalTripClear s
  | .deviceReset images => Sys2Proof.Machine.execDeviceReset images s
  | .hawserLinkTrained port => Sys2Proof.Machine.execHawserLinkTrained port s
  | .heldReformExpiry tackle => Sys2Proof.Machine.execHeldReformExpiry tackle s

end Sys2Proof.Machine
end

