-- ==== Sys2Proof/Machine/Tick.lean ====
section
/-! DEFINITION. The end of a core clock: virtual time (R65, R67), the engine (R220), the power governor (R433), event counts
(R432), copies (R352), arrivals (R422), waits and barrier phases whose conditions have come (R36, R419, R423, R425), results that are due (R131),
what the pager has made present (R357, R375), and what saved gangs wait for (R332, R450). -/

namespace Sys2Proof.Machine

/-- The Capstan of the group on a core, if it holds one. -/
def coreCap (s : State) (core : Nat) : Option Capstan :=
  s.groups.findSome? fun g => if g.core == core && g.state == .resident then g.cap else none

/-- Does a group's virtual time advance with this clock? That of a group with a Capstan advances as a bundle issues, and not
otherwise: it stands still in a freeze, while a trap is handled, and after HALT (R65, R67, R195, R442). That of a group that the
debugger has halted stands still: DESIGN CHOICE (log 124), unsafe, since R65 counts while the group is resident and R445 keeps it on
its core. -/
def Group.timeRuns (g : Group) (co : Core) : Bool := g.state == .resident && !co.frozen && g.cap.isNone

/-- Has a core's virtual time advanced in this clock: that of a group on it (R65)? -/
def coreAdvances (s : State) (core : Nat) (co : Core) : Bool :=
  s.groups.any fun g => g.core == core && (g.timeRuns co || (g.state == .resident && g.cap.any fun k => k.vcAt == some s.clock))

/-- Is a core whose Capstan runs frozen in this clock (R67)? -/
def coreFrozen (s : State) (core : Nat) : Bool :=
  (coreCap s core).any fun k => !k.atRest && k.taken.isNone && k.vcAt != some s.clock

/-- Is the engine of a core occupied, and with what weight? What a stop has left to it comes first (R230, R231). -/
def engineWeight (s : State) (core : Nat) : Option Nat :=
  match (getCore s core).drain, (coreCap s core).bind fun k => k.eng.head? with
  | e :: _, _ => some e.2
  | [], some e => if e.started then some e.weight else none
  | [], none => none

/-- The engine has run for a clock on what a stop has left to it. -/
def drainTick : List (Nat × Nat) → List (Nat × Nat)
  | [] => []
  | (n, w) :: rest => if n ≤ 1 then rest else (n - 1, w) :: rest

/-- Does the copy at the head of a channel wait on a derived tile? -/
def copyTileWait (s : State) (core ch : Nat) : Bool :=
  (headCopy s core ch).any fun k => k.started && k.fail.isNone && !k.sentOut &&
    ((getGroup s k.gid).bind fun g => (getCtx s g.ctx).map fun c => (copyBytes k).any fun x => match copyRead s c g k x.2.2 x.1 with
      | .tile _ => true
      | _ => false).getD false

/-- Does a group of a core wait on a derived tile that is DROPPED or BUILDING: with an access that has not issued, an issued load, a
TSTD, a RETIRE, or a copy (R432)? -/
def tileWait (s : State) (core : Nat) : Bool :=
  let isTile := fun (c : Ctx) (k : WaitKind) => match k with
    | .tile _ => true
    | .retire _ _ (va :: _) => tileState s c va == rsBuilding
    | _ => false
  let stuck := fun (g : Group) (c : Ctx) (e : Entry) => e.stuck s c || match e.kind with
    | .tstd va _ _ => e.sent && builtAway s g c va
    | _ => false
  (s.groups.any fun g => g.core == core && g.state == .resident && (getCtx s g.ctx).any fun c =>
    ((g.strands.any fun st => st.acc.any (stuck g c) || st.wait.any fun w => isTile c w.kind) ||
     g.cap.any fun k => k.acc.any (stuck g c) || k.pageWait.any (isTile c))) || copyTileWait s core 0 || copyTileWait s core 1

/-- The weight of the clock that ends: what issued, the occupied VX ports and the engine (R231, R433). -/
def clockWeight (s : State) (core : Nat) (co : Core) : Nat :=
  if co.frozen then 0
  else co.weight + (co.busy.filter fun e => e.1 % 4 == 1 && decide (s.clock < e.2)).length * 2 + (engineWeight s core).getD 0

/-- A core at the end of a clock: its events are counted, its window moves on, and the governor decides the next clock. -/
def coreTick (s : State) (core : Nat) (co : Core) : Core :=
  let adv := coreAdvances s core co
  let c1 := perfCount co 1 1
  let c2 := if adv then perfCount c1 2 1 else if !co.frozen && coreFrozen s core then perfCount c1 3 1 else c1
  let c3 := if (engineWeight s core).isSome then perfCount c2 7 1 else c2
  let c4 := if tileWait s core then perfCount c3 9 1 else c3
  let busy := if co.frozen then co.busy.map fun e => (e.1, e.2 + 1) else co.busy
  let c5 := { c4 with weights := (clockWeight s core co :: co.weights).take 64, weight := 0, frozen := false
                      busy := busy.filter fun e => decide (s.clock + 1 < e.2)
                      drain := if co.frozen then co.drain else drainTick co.drain }
  governorFreeze s c5

/-- A strand in a governor freeze: its units hold their results for the clock (R433). -/
def Strand.freeze (st : Strand) : Strand := { st with flights := st.flights.map fun f => { f with landAt := f.landAt + 1 } }

/-- A Capstan in a governor freeze. -/
def Capstan.freeze (k : Capstan) : Capstan :=
  { k with res := k.res.map fun x => { x with minAt := x.minAt + 1 }, eng := k.eng.map fun e => { e with relAt := e.relAt + 1 } }

/-- Does the Capstan of a core stand still in this clock for one of some tiles alone, which a stopped operation is to write: the
bundle, or the slot, that would go on reads or writes it, or the Capstan or a strand waits in a TAKE of it (R36, R223; log 133)? -/
def CapView.stalledOn (v : CapView) (tiles : List Nat) : Bool :=
  let taken := fun (j : Nat) (st : Strand) => match st.wait with
    | some { kind := .take q, .. } => (offerTo v.g j q).any fun o => tiles.contains o.1
    | _ => false
  let touched := fun (b : Bundle) (ix : Nat) => ((slotTiles b ix).1 ++ (slotTiles b ix).2).any fun t => tiles.contains t
  v.g.state == .resident && v.k.taken.isNone && v.k.vcAt != some v.s.clock && !v.late &&
  ((match v.k.wait with
    | some (.take t) => tiles.contains t
    | _ => false) ||
   (v.g.strands.zipIdx.any fun x => taken x.2 x.1) ||
   (match fetchBundle v, v.k.part with
    | .bundle b, some p => touched b p.idx
    | .bundle b, none => slotIxs.any fun ix => decide ((v.k.reenter.map (·.1)).getD 0 ≤ ix) && present b ix && touched b ix
    | .state _, _ => false))

/-- A matrix operation in the snapshot buffer: the engine completes it in core clocks (R230). In a clock in which the core stands
still for one of its tiles (`held`) its entry comes a cycle nearer (R67, R223; log 133). -/
def Exposed.run (x : Exposed) (mse held : Bool) (vcyc : Nat) : Exposed :=
  match x.op with
  | none => x
  | some e => { x with op := some (if e.left = 0 then e else if e.left = 1 then { e with left := 0 }.completes mse else { e with left := e.left - 1 })
                       bound := if held && decide (vcyc < x.bound) then x.bound - 1 else x.bound }

/-- The matrix operations of a group's snapshot buffer at the end of a clock. -/
def Group.runSnaps (g : Group) (s : State) : List Exposed :=
  let held := fun (x : Exposed) => x.op.any fun e => (capViewOf s g.gid).any fun v => v.stalledOn e.dtiles
  g.snaps.map fun x => x.run (g.cap.any fun k => k.mse) (held x) g.vcyc

/-- A Capstan's engine runs for a clock. -/
def Capstan.run (k : Capstan) : Capstan := { k with eng := k.eng.map fun e => if e.started then { e with left := e.left - 1 } else e }

/-- A group at the end of a clock; a write to SIGCTL takes effect (R249). -/
def groupTick (s : State) (g : Group) : Group :=
  let co := getCore s g.core
  let g1 := if g.timeRuns co then { g with vcyc := (g.vcyc + 1) % 2 ^ 64 } else g
  let g2 := { g1 with qsatNow := 0, qundNow := 0, sigctl := g.sigNext.getD g.sigctl, sigNext := none
                      snaps := if g.state == .resident && co.frozen then g.snaps else g.runSnaps s }
  if g.state != .resident then g2
  else if co.frozen then { g2 with strands := g.strands.map Strand.freeze, cap := g.cap.map Capstan.freeze }
  else { g2 with cap := g.cap.map Capstan.run }

/-- What stands at the head of a Capstan's list and needs no access of its own goes: a CLARV of the Y slot arrives in the clock in which
nothing before it is outstanding (R424). The fuel is the list's length. -/
def popBarriers : Nat → State → Nat → State
  | 0, s, _ => s
  | n + 1, s, gid => match (getGroup s gid).bind fun g => popHead s g (.capstan gid) with
    | some t => popBarriers n t gid
    | none => s

/-- The heads of the lists of the Capstans that hold a core. -/
def popArrivals (s : State) : State :=
  (s.groups.filter fun g => g.state == .resident).foldl (fun s g => popBarriers (g.cap.elim 0 fun k => k.acc.length) s g.gid) s

/-- Every cleat with something to apply settles, and those of saved groups (R421, R422). -/
def settleCleats (s : State) : State :=
  let t := s.cores.foldl (fun s e => (e.2.cleats.filter fun c => c.2.pending s.clock).foldl (fun s c => settleCleat s e.1 c.1) s) s
  (t.groups.filter fun g => g.state == .saved).foldl (fun s g => settleSaved s g.gid) t

/-- The first result of a group that is due: strand and flight. -/
def dueFlight (g : Group) (clock : Nat) : Option (Nat × Flight) :=
  g.strands.zipIdx.foldl (fun (b : Option (Nat × Flight)) x => match x.1.due clock with
    | none => b
    | some f => match b with
      | some y => if f.before y.2 x.2 y.1 then some (x.2, f) else b
      | none => some (x.2, f)) none

/-- The results of a group that are due land in order. The fuel is their number. -/
def landDue : Nat → State → Nat → State
  | 0, s, _ => s
  | n + 1, s, gid => match (getGroup s gid).bind fun g => dueFlight g s.clock with
    | none => s
    | some (j, f) => match viewOf s gid j 0 0 with
      | none => s
      | some v => landDue n (v.landFlight f) gid

/-- How many results of a group are in flight. -/
def Group.flightCount (g : Group) : Nat := g.strands.foldl (fun n st => n + st.flights.length) 0

/-- The state an event leaves, where it is one that has no fault or refusal. -/
def settled (r : Host.Outcome State Fault Refusal) (s : State) : State := match r with
  | .next t => t
  | _ => s

/-- The waits of an agent whose conditions have come in this clock end (R36, R419, R423). -/
def endWaits (s : State) (gid : Nat) (who : Option Nat) : State :=
  let a := settled (execTakeComplete gid who s) s
  let b := settled (execClwaitComplete gid who a) a
  settled (execWaitpComplete gid who b) b

/-- A strand that has begun a wait of R441's list in this clock, and still waits, is in an unmasked handler. -/
def Strand.unmask (st : Strand) : Strand :=
  let open_ := fun (h : Handler) => { h with masked := h.masked && !(st.yield && st.wait.isSome) }
  { st with yield := false, handler := st.handler.map open_ }

/-- What a resident group's barriers and waits have come to as the clock ends (R425, R441). -/
def settleWaits (s : State) (g : Group) : State :=
  let bars := (List.range 16).foldl (fun s b => settled (execBarPhaseComplete g.gid b s) s) s
  let ends := (none :: (List.range g.strands.length).map some).foldl (fun s who => endWaits s g.gid who) bars
  match getGroup ends g.gid with
  | some h => putGroup ends { h with strands := h.strands.map Strand.unmask }
  | none => ends

/-- What has come about in the clock that ends: cleats, barriers and waits. -/
def settleClock (s : State) : State :=
  let t := settleCleats (popArrivals s)
  (t.groups.filter fun g => g.state == .resident).foldl settleWaits t

/-- The slices take up a STEP at the latest 1,024 clocks after the oldest TICK that they have not taken up (R414). -/
def Ctx.spread (c : Ctx) (clock : Nat) : Ctx :=
  if c.step != c.stepL2 && decide (c.stepAt + 1024 ≤ clock) then { c with stepL2 := c.step } else c

/-- Bytes that the device holds for absent pages are written once the page is there; else the pager is asked (R375). -/
def flushHeld (s : State) : State :=
  let t := s.held.foldl (fun s e => (getCtx s e.1).elim s fun c => sysWrite s c e.2.1 [e.2.2]) { s with held := [] }
  t.held.foldl (fun s e => (getCtx s e.1).elim s fun c => askPage s c e.2.1) (raiseHeld t)

/-- The engine of a group: a finished operation completes, the next starts, read entries go (R220 to R222). -/
def engineSettle (s : State) (gid : Nat) : State :=
  let s1 := settled (execMmaStart gid (settled (execMmaComplete gid s) s)) s
  ((getGroup s1 gid).bind fun g => g.cap).elim s1 fun k =>
    k.eng.foldl (fun s e => settled (execScoreboardReadRelease gid e.seq s) s) s1

/-- Has the future of a saved group come (R332, R345, R450)? -/
def futureCome (s : State) (g : Group) : Bool :=
  match g.future, getCtx s g.ctx with
  | .counter addr v, some c => readCounter s c addr v == .met true
  | .pager n, some c => !(getTenant s c.tenant).pgopen.any fun p => p.number == n
  | .tile va, some c => (tileUnready s c va).isNone
  | .none, _ => true
  | _, none => true

/-- The read of a counter that a saved group waits for asks for its page, or starts the build of its tile (R266, R375). -/
def pokeFuture (s : State) (g : Group) : State :=
  match g.future, getCtx s g.ctx with
  | .counter addr v, some c => match readCounter s c addr v with
    | .met _ => s
    | .page va => askPage s c va
    | .tile va => meetTile s c none va
  | _, _ => s

/-- Saved groups whose future has come are ready. -/
def settleFutures (s : State) : State :=
  let t : State := { s with groups := s.groups.map fun g =>
      if g.state == .saved && g.ready.isNone && futureCome s g then { g with ready := some s.clock } else g }
  (t.groups.filter fun g => g.state == .saved && g.ready.isNone).foldl pokeFuture t

/-- Frames that lookups held back go to the free list (R387). -/
def settleAllFrames (s : State) : State := s.ctxs.foldl settleFrames s

/-- The distributor's pass on PLACING grids, every 256 clocks (R338). -/
def periodicPass (s : State) : State := if s.clock % 256 = 0 then settled (execPlacementPass s) s else s

/-- A core clock ends and the next begins. -/
def tick (s : State) : State :=
  let s0 := settleClock s
  let s1 : State := { s0 with cores := s0.cores.map (fun e => (e.1, coreTick s0 e.1 e.2)), groups := s0.groups.map (groupTick s0) }
  let s2 : State := { s1 with clock := s.clock + 1, ctxs := s1.ctxs.map fun c => c.spread (s.clock + 1) }
  let s3 := s2.groups.foldl (fun s g => landDue g.flightCount s g.gid) s2
  let s4 := (s3.groups.filter fun g => g.state == .resident).foldl (fun s g => engineSettle s g.gid) s3
  periodicPass (settleFutures (settleAllFrames (retryFabric (flushHeld (runCopies s4)))))

end Sys2Proof.Machine
end

