-- ==== Sys2Proof/Machine/Run.lean ====
section
/-! DEFINITION. What each act of the agenda does, the order in which the device goes on by itself (log 7), and an instruction
placed where the next step fetches it (log 9). -/

namespace Sys2Proof.Machine

open Sys2Proof

/-- Words that decode to no instruction raise ILLEGAL_OPCODE (R56). -/
def illegalExec (w0 : DWord) : State → Host.Outcome State Fault Refusal :=
  let h := (fieldsOf w0 0).hd
  strandExec h { port := .ctl, len := wordBytes w0 } fun v => v.illegal h (wordBytes w0)

/-- A strand fetches and executes one instruction (R239 to R241): words that decode to no instruction are illegal (R56). -/
def stepStrand (s : State) (gid j : Nat) : Host.Outcome State Fault Refusal :=
  match viewOf s gid j 0 0 with
  | none => .next s
  | some v =>
    if v.awake then
      match fetchWords s v.c v.st.pc.toNat with
      | .page va _ => .next (fetchWait v va)
      | .fault cause extra addr iw0 => .next (fetchTrap v cause extra addr iw0)
      | .words w0 w1 =>
          let s1 := { s with cur := some { agent := .strand gid j, iw0 := w0, iw1 := w1 } }
          match decodeWords w0 w1 with
          | .ok i => exec i s1
          | .error _ => illegalExec w0 s1
      | .illegal w0 =>
          illegalExec w0 { s with free := s.free + 1
                                  cur := some { agent := .strand gid j, iw0 := w0, iw1 := Config.freeInstrWord s.free } }
    else .next s

/-- Is a strand in a wait? -/
def waits (s : State) (gid j : Nat) : Bool := (viewOf s gid j 0 0).any fun v => v.st.wait.isSome

/-- Does a strand wait in a RETIRE? -/
def retires (s : State) (gid j : Nat) : Bool :=
  (viewOf s gid j 0 0).any fun v => v.st.wait.any fun w => match w.kind with
    | .retire .. => true
    | _ => false

/-- A strand acts. One that may issue again leaves its wait as its instruction issues; a RETIRE goes on. -/
def wakeAndStep (s : State) (gid j : Nat) : Host.Outcome State Fault Refusal :=
  if retires s gid j then .next (wakeStrand s gid j)
  else if waits s gid j then
    let w := wakeStrand s gid j
    match stepStrand w gid j with
    | .next t => .next (if { t with cur := w.cur } = w then s else t)
    | r => r
  else stepStrand s gid j

/-- A Capstan fetches and issues one bundle (R62, R189). -/
def stepCapstan (s : State) (gid : Nat) : Host.Outcome State Fault Refusal :=
  match capViewOf s gid with
  | none => .next s
  | some v => match fetchBundle v with
    | .bundle b => exec (.bundleIssue b) { s with cur := some { agent := .capstan gid } }
    | .state t => .next t

/-- What an act does. -/
def runAct (s : State) (a : Act) : Host.Outcome State Fault Refusal :=
  match a with
  | .strand gid j => wakeAndStep s gid j
  | .capstan gid => stepCapstan s gid
  | .event i => exec i s
  | .tick => .next (tick s)

/-! ### The device's own order (log 7) -/

/-- The performing of an agent's accesses, and the sending of its queues. -/
def accessEvents (ag : Agent) (l : List Entry) : List Instr :=
  List.append (l.flatMap fun e => (List.range (max 1 e.parts.length)).map fun k => Instr.memoryAccessPerform ag e.seq k)
    (if l.isEmpty then [] else [.memoryQueueSend ag false, .memoryQueueSend ag true])

/-- The event that ends a wait. -/
def WaitKind.ending (gid j : Nat) : WaitKind → List Instr
  | .take _ => [.takeComplete gid (some j)]
  | .clwait .. => [.clwaitComplete gid (some j)]
  | .waitp .. => [.waitpComplete gid (some j)]
  | .join .. => [.joinComplete gid j, .joinSwapOut gid j]
  | .tkstat .. => [.tkstatWaitComplete gid j]
  | .launch .. => [.launchAccept gid j]
  | .belay .. => [.belayTakeEffect gid j]
  | .sched _ => [.schedTakeEffect gid j]
  | .tkreform .. => [.tkreformComplete gid j]
  | .bar _ | .retire .. | .tile _ | .page _ | .record _ | .mapWord _ _ => []

/-- What a strand does, last that it issues. -/
def strandActs (gid j : Nat) (st : Strand) : List Act :=
  let evs : List Instr := List.flatten
    [accessEvents (.strand gid j) st.acc, if st.trap.isSome then [.strandTrapEntry gid j] else [],
     st.wait.elim [] fun w => w.kind.ending gid j]
  List.append (evs.map Act.event) [.strand gid j]

/-- The event that ends a Capstan's wait. -/
def CWait.ending (gid : Nat) : CWait → List Instr
  | .take _ => [.takeComplete gid none]
  | .clwait .. => [.clwaitComplete gid none]
  | .waitp .. => [.waitpComplete gid none]

/-- What a Capstan does, last that it issues. -/
def capstanActs (g : Group) (k : Capstan) : List Act :=
  let evs : List Instr := List.flatten
    [accessEvents (.capstan g.gid) k.acc, k.res.map fun x => .exposedResultLand g.gid x.seq,
     g.snaps.map fun x => .snapshotEntryLand g.gid x.seq, k.sld.map fun w => .sldWriteLand g.gid w.entry,
     [.mmaComplete g.gid, .mmaStart g.gid], k.eng.map fun e => .scoreboardReadRelease g.gid e.seq,
     k.wait.elim [] fun w => w.ending g.gid, if k.traps.isEmpty then [] else [.capstanTrap g.gid],
     if k.taken.isSome then [.capstanTrapDelivery g.gid] else [], [.coreFreezeEnd g.gid]]
  List.append (evs.map Act.event) [.capstan g.gid]

/-- What a resident group's stops and its end wait for. -/
def stopEvents (g : Group) : List Instr :=
  List.append [.groupEnd g.gid, .waiterConversion g.gid, .conversionRetry g.gid, .preemption g.gid, .pregraceExpiry g.gid]
    (if g.stopReq.any fun r => r.halt then [.debugHalt g.gid] else [])

/-- What a resident group does. -/
def groupActs (g : Group) : List Act :=
  List.flatten [(List.range 16).map fun b => Act.event (.barPhaseComplete g.gid b),
    g.strands.zipIdx.flatMap fun x => strandActs g.gid x.2 x.1, g.cap.elim [] (capstanActs g), (stopEvents g).map Act.event]

/-- The events of a core's walkers and Windlass channels. -/
def coreEvents (n : Nat) (co : Core) : List Instr :=
  List.flatten [(List.range co.walks.length).map fun k => Instr.pageWalkComplete n k,
    if co.ch0.isEmpty then [] else [.windlassCopyStart n 0, .windlassCopyComplete n 0],
    if co.ch1.isEmpty then [] else [.windlassCopyStart n 1, .windlassCopyComplete n 1]]

/-- The events of a tackle. -/
def tackleEvents (k : Nat) (x : Tackle) : List Instr :=
  List.append (x.pending.map fun p => Instr.collComplete k p.seq) [.collTimeout k, .heldReformExpiry k]

/-- The events of a context. -/
def ctxEvents (c : Ctx) : List Instr :=
  List.append (if c.step = c.stepL2 then [] else [.stepPropagate c.id])
    (if c.sliceStart.isSome && !c.expired then [.timeSliceExpiry c.id] else [])

/-- The events of a tenant's window. -/
def tenantEvents (s : State) (t : Nat) : List Instr :=
  List.flatten [((List.range 8).filter fun q => (getQueue s t q).readable).map fun q => Instr.distributorRecordRead t q,
    if (getTenant s t).cmdbusy.isSome then [.invalidationComplete t] else [],
    if (getTenant s t).attwait then [.attestationReport t] else []]

/-- The event of a grid. -/
def gridEvents (x : Grid) : List Instr :=
  match x.state with
  | .queued | .waitdep => [.dependencePoll x.id]
  | .fetch => [.gridFetchComplete x.id]
  | .ending | .refused => [.gridCompletionStep x.id]
  | .placing | .placed | .done => []

/-- The events of the distributor, of Splice, of the cores' engines and of the tables. -/
def deviceActs (s : State) : List Act :=
  let evs : List Instr := List.flatten
    [s.cores.flatMap fun e => coreEvents e.1 e.2, s.builds.map fun b => .spliceBuildAdmit b.ctx b.va,
     s.builds.map fun b => .spliceChainAbort b.chain, s.tackles.zipIdx.flatMap fun x => tackleEvents x.2 x.1,
     s.ctxs.flatMap ctxEvents, (List.range Config.tenants).flatMap (tenantEvents s), s.grids.flatMap gridEvents]
  evs.map Act.event

/-- Everything the device may do by itself in the present clock, in the order in which it is tried. -/
def ownActs (s : State) : List Act :=
  List.append ((s.groups.filter fun g => g.state == .resident).flatMap groupActs) (deviceActs s)

/-- Does an act change anything but which agent is current? -/
def changes (s : State) (a : Act) : Bool :=
  match runAct s a with
  | .next t => { t with cur := s.cur } != s
  | _ => true

/-- With an empty agenda the first act that changes anything is taken; when none does, the clock ends. -/
def idleStep (s : State) : Host.Outcome State Fault Refusal := runAct s (((ownActs s).find? (changes s)).getD .tick)

/-! ### A program placed for the next step (log 9) -/

/-- The page tables of a context made for a placed instruction: one 2 MiB page, virtual address 0 at 0x20_0000. -/
def placedTables (m : Memory) : Memory :=
  writeNat (writeNat (writeNat m 0x100000 8 0x120001) 0x120000 8 0x130001) 0x130000 8 0x20001F

/-- A number that no context has. -/
def freshCtx (s : State) : Nat := s.ctxs.foldl (fun n c => max n (c.id + 1)) 0

/-- A group of one strand, at address 0, with a tile at each slot. -/
def placedGroup (s : State) (cap : Option Capstan) : Group :=
  { gid := s.nextGid, ctx := freshCtx s, grid := s.nextSeq, capBound := cap.isSome, shbytes := 4096
    strands := [{ q := Vector.ofFn fun k => BitVec.ofNat 16 (0x8000 + k.val), gen := seedUnit 0 0, readyAt := s.clock, pdone := cap.isSome }]
    owner := (List.range 512).map fun t => (t, if t < 32 && cap.isNone then .strand 0 t else .capstan)
    placedAt := s.clock, cap }

/-- The state with a new context and a group of it, whose agent acts next. -/
def placeFresh (s : State) (code : List Byte) (cap : Option Capstan) : State :=
  let c : Ctx := { id := freshCtx s, ptroot := 0x100000, trapvec := 0x8000, sliceStart := some s.clock }
  { s with boot := 2, mem := writeBytes (placedTables s.mem) 0x200000 code, ctxs := s.ctxs ++ [c], groups := s.groups ++ [placedGroup s cap]
           nextGid := s.nextGid + 1, nextSeq := s.nextSeq + 1
           agenda := (if cap.isSome then .capstan s.nextGid else .strand s.nextGid 0) :: s.agenda }

/-- Where the strand at the head of the agenda fetches from: the physical address of 16 bytes of code. -/
def fetchPlace (s : State) : Option Nat :=
  match s.agenda with
  | .strand gid j :: _ => match viewOf s gid j 0 0 with
    | none => none
    | some v => match checkSys s v.c .fetch v.st.pc.toNat 8, checkSys s v.c .fetch (v.st.pc.toNat + 8) 8 with
      | .ok pa _, .ok pb _ => if pb = pa + 8 && v.awake then some pa else none
      | _, _ => none
  | _ => none

/-- An instruction of the opcode table placed where the next step fetches it: a strand's at its PC, in a new context where no
strand is about to act; a bundle in the slice store of a new group. -/
def placeWord (s : State) (nbits w : Nat) : State :=
  if nbits ≤ 128 then
    let code := leBytes 16 (w % 2 ^ nbits)
    match fetchPlace s with
    | some pa => { s with mem := writeBytes s.mem pa code }
    | none => placeFresh s code none
  else placeFresh s [] (some { cpc := slicePc 0, slice := writeBytes [] 0 (leBytes 64 (w % 2 ^ 512)), gen := seedUnit 0 32 })

end Sys2Proof.Machine
end

