-- ==== Sys2Proof/Safety.lean ====
section
/-! DEFINITION. The terms in which the statements speak of a step: what counts as a safe run, when a strand's instruction
is ready to issue, and what an instruction leaves alone. -/

namespace Sys2Proof

/-- A step that answers a next state. -/
def Safe (s : Machine.State) : Prop := ∃ t, Machine.step s = .next t

namespace Machine

/-- None of the checks between issue and an instruction's own effect fails: its feature is there (R86), its V registers lie
in mapped slots (R124), no region or recompute group forbids it (R322, R405), no source register is bad (R270). -/
def View.open (v : View) (h : Hd) (n : Need) : Bool :=
  ((!n.f64 && !n.coll) || v.s.hasFeature) && (v.st.unowned n.named).isNone &&
  (!n.noRegion || !v.st.active || v.st.handler.isSome) && (!n.noRecompute || v.g.build.isNone) && (v.badSource h n).isNone

/-- v is the strand that acts in s, it may issue an instruction with the guard h and the needs n (R137, R164, R346), and the checks before
the instruction's own effect pass. -/
def Ready (s : State) (v : View) (h : Hd) (n : Need) : Prop :=
  curView s = some v ∧ v.canIssue h n = true ∧ v.open h n = true

/-- What a core keeps when an instruction of one of its strands issues: all but the weight, the port occupancies and the
event counts, of which event 5 counts the issue (R432). -/
def CoreKept (a b : Core) : Prop :=
  { b with weight := a.weight, busy := a.busy, perf := a.perf } = a ∧ b.perf = (perfCount a 5 1).perf

/-- Everything outside one group, its core and the contexts' own records is the same: memory, caches, the poison table,
derived tiles, tenants, grids, builds, tackles, the clock, what has left the device, every other group, every other core. -/
def Outside (s t : State) (gid core : Nat) : Prop :=
  { t with groups := s.groups, ctxs := s.ctxs, cores := s.cores, nextSeq := s.nextSeq } = s ∧
  (∀ k, k ≠ gid → getGroup t k = getGroup s k) ∧ (∀ k, k ≠ core → getCore t k = getCore s k)

/-- Outside the issuing strand's group nothing changes but what issuing draws from its core. -/
def Apart (s t : State) (v : View) : Prop :=
  Outside s t v.g.gid v.g.core ∧ (∀ c, getCtx t c = getCtx s c) ∧ CoreKept (getCore s v.g.core) (getCore t v.g.core)

/-- The instruction runs: exec answers a next state t, apart from the strand's own group, and `P` holds of the strand's
view of t. -/
def Runs (i : Instr) (s : State) (v : View) (P : View → Prop) : Prop :=
  ∃ t w, exec i s = .next t ∧ Apart s t v ∧ viewOf t v.g.gid v.j v.iw0 v.iw1 = some w ∧ P w

/-- The strand after an instruction of `len` bytes that has issued and left its other state alone. -/
def View.passed (v : View) (len : Nat) : Strand :=
  { v.st with pc := v.st.pc + BitVec.ofNat 64 len, readyAt := v.s.clock + 1, issuedAt := some v.s.clock }

/-- The instruction runs and all that changes in its group is its own strand, which becomes st. -/
def Becomes (i : Instr) (s : State) (v : View) (st : Strand) : Prop := Runs i s v fun w => w.st = st ∧ w.g = v.g.putStrand v.j st

/-- The instruction runs and all that changes in its group is that its PC advances and that a result is in flight, to land
`lat` clocks after issue: words of V registers and uniform registers (R131, R137). -/
def Flies (i : Instr) (s : State) (v : View) (len lat : Nat) (ws : List VWrite) (ss : List (Nat × Word)) : Prop :=
  Becomes i s v { v.passed len with
    flights := v.st.flights ++ [{ seq := s.nextSeq, issuedAt := s.clock, landAt := s.clock + lat, v := ws, s := ss }] }

/-- A word of a V register of the strand in a lane. -/
def View.word (v : View) (n lane : Nat) : Word := (readV v.g v.st n lane).1

/-- B's word in a lane as a 32-bit value (R50 to R52). -/
def View.bword (v : View) (b : BSrc) (lane : Nat) : Word := BitVec.ofNat 32 (v.srcB .b32 b lane).code

/-- A 64-bit pair of V registers in a lane (R90). -/
def View.pair (v : View) (n lane : Nat) : DWord := v.word (n + 1) lane ++ v.word n lane

/-- A result word in V register d of each acting lane, with tag 0xFF (R53, R120). -/
def View.results (v : View) (h : Hd) (d : VR) (r : Nat → Word) : List VWrite :=
  v.vwrites d.val (v.st.acting h) fun i => (r i, 0xFF)

/-- A 64-bit result in the pair at d, d + 1 of each acting lane, with tags 0xFF. -/
def View.results64 (v : View) (h : Hd) (d : VR) (r : Nat → DWord) : List VWrite :=
  v.vwrites d.val (v.st.acting h) (fun i => ((r i).extractLsb' 0 32, 0xFF)) ++
  v.vwrites (d.val + 1) (v.st.acting h) (fun i => ((r i).extractLsb' 32 32, 0xFF))

/-- Element k of A, B or C in a lane, read as FMT's signedness gives (R141). -/
def View.elemV (v : View) (f : Fmt) (n lane k : Nat) : Int := elemInt f (v.srcV f n lane).code k
/-- Element k of B. -/
def View.elemB (v : View) (f : Fmt) (b : BSrc) (lane k : Nat) : Int := elemInt f (v.srcB f b lane).code k

/-- The lowest value of an integer format. -/
def lowestOf (f : Fmt) : Int := if f.signed then -(2 ^ (f.width - 1) : Nat) else 0
/-- The highest value of an integer format. -/
def highestOf (f : Fmt) : Int := if f.signed then (2 ^ (f.width - 1) : Nat) - 1 else (2 ^ f.width : Nat) - 1

/-- The code of an exact integer result: clamped under SAT, else modulo 2^w (R141). -/
def intResult (f : Fmt) (sat : Bool) (x : Int) : Nat :=
  ((if sat then max (lowestOf f) (min (highestOf f) x) else x) % (2 ^ f.width : Nat)).toNat

/-- A result word whose element k is the code of the exact result x lane k flies to D (R137, R141). -/
def FliesInt (i : Instr) (s : State) (v : View) (h : Hd) (f : Fmt) (d : VR) (len lat : Nat) (sat : Bool) (x : Nat → Nat → Int) : Prop :=
  ∃ word : Nat → Word, Flies i s v len lat (v.results h d word) [] ∧
    ∀ lane k, k < f.elems → elemAt f (word lane).toNat k = intResult f sat (x lane k)

/-- What a predicate becomes in a lane: the test combined with another predicate (R145, R168). -/
def Comb.value (c : Comb) (v : View) (t : Nat → Bool) (lane : Nat) : Bool :=
  let q := (v.st.pred c.p).getLsbD lane != c.neg
  match c.op with
  | .none => t lane
  | .and => t lane && q
  | .or => t lane || q
  | .xor => t lane != q

/-- A strand that holds its next reader and writer of some predicates, or of EM, back until the instruction's latency has passed
(R137). -/
def View.holding (v : View) (st : Strand) (lat : Nat) (p : List PR) (em : Bool) : Strand :=
  { st with flights := st.flights ++ [{ seq := v.s.nextSeq, issuedAt := v.s.clock, landAt := v.s.clock + lat, p, em }] }

/-- The instruction runs and all that changes in its group is its PC and its predicates, which become what `q` gives for
each predicate P0 to P6 and lane. Those it writes are held back for its latency (R137). -/
def Predicates (i : Instr) (s : State) (v : View) (len lat : Nat) (written : List PR) (q : PR → Nat → Bool) : Prop :=
  ∃ p, Becomes i s v (v.holding { v.passed len with p } lat written false) ∧
    ∀ (n : PR) (h : n.val < 7) (lane : Nat), lane < 32 → (p[n.val]).getLsbD lane = q n lane

/-- Predicate pd takes a value in the acting lanes and every other predicate and lane keeps its own; a write to P7 is
discarded (R53, R126). -/
def View.predWrite (v : View) (h : Hd) (pd : PR) (t : Nat → Bool) (n : PR) (lane : Nat) : Bool :=
  if n = pd ∧ (v.st.acting h).getLsbD lane = true then t lane else (v.st.pred n).getLsbD lane

/-- The instruction acts once: it does what it does where it acts, and otherwise only advances (R139). -/
def Once (i : Instr) (s : State) (v : View) (h : Hd) (len : Nat) (acts : Prop) : Prop :=
  (v.st.actsOnce h = true → acts) ∧ (v.st.actsOnce h = false → Becomes i s v (v.passed len))

/-- Half k of B as MOV and SEL copy it: a V register's word and tag, else the word with tag 0xFF (R147). -/
def View.copied (v : View) (f : Fmt) (b : BSrc) (k lane : Nat) : Word × Byte :=
  match b with
  | .v n => readV v.g v.st (n.val + k) lane
  | _ => (BitVec.ofNat 32 ((v.srcB f b lane).code / 2 ^ (32 * k)), 0xFF)

/-- Copies written to D, or to the pair at D under F64, of the acting lanes. -/
def View.copies (v : View) (h : Hd) (f : Fmt) (d : VR) (r : Nat → Nat → Word × Byte) : List VWrite :=
  v.vwrites d.val (v.st.acting h) (r 0) ++ if f = .f64 then v.vwrites (d.val + 1) (v.st.acting h) (r 1) else []

/-- Element k of a V register, or of B, in a lane as a number; an F64 pair is one element (R89, R90). -/
def View.numV (v : View) (f : Fmt) (n lane k : Nat) : Num := ((v.srcV f n lane).opd f k).x
/-- Element k of B as a number. -/
def View.numB (v : View) (f : Fmt) (b : BSrc) (lane k : Nat) : Num := ((v.srcB f b lane).opd f k).x

/-- The code of a floating-point result: the first NaN operand (R105), an origin NaN for an invalid operation (R103), else
the exact value rounded once (R98). -/
def View.fpCode (v : View) (f : Fmt) (mode : RMode) (sat : Bool) (lane : Nat) (operands : List Num) (x : Num) : Nat :=
  match firstNan operands with
  | some n => n.nanCode f (v.nan lane)
  | none => if x = .bad then originNan f (v.nan lane) else (roundTo f x mode sat 0).code

/-- The check of SIGNIFICANCE that a landing result carries while SIGCTL enables it and the strand is in no handler (R163,
R440). -/
def View.sigCheck (v : View) (h : Hd) (f : Fmt) (regs : List Nat) (elems : Nat) : Option SigCheck :=
  if v.g.sigctl.getLsbD 0 && v.st.handler.isNone then
    some { pc := v.st.pc, iw0 := v.iw0, iw1 := v.iw1, fmt := f, elems, lanes := v.st.acting h,
           regs := regs.map fun r => (v.st.tileOf r, r % 8) }
  else none

/-- A checked result r, a code and a tag byte for each lane, flies to D, or to the pair at D under F64. -/
def FliesFloat (i : Instr) (s : State) (v : View) (h : Hd) (f : Fmt) (d : VR) (len lat : Nat) (r : Nat → Nat × Byte) : Prop :=
  Becomes i s v { v.passed len with
    flights := v.st.flights ++ [{ seq := s.nextSeq, issuedAt := s.clock, landAt := s.clock + lat,
                                  v := v.resultWrites f d.val (v.st.acting h) r, chk := v.sigCheck h f [d.val] (2 ^ f.elems - 1) }] }

/-- A checked result whose element k has the code given flies to D. -/
def FliesCodes (i : Instr) (s : State) (v : View) (h : Hd) (f : Fmt) (d : VR) (len lat : Nat) (code : Nat → Nat → Nat) : Prop :=
  ∃ r, FliesFloat i s v h f d len lat r ∧ ∀ lane k, k < f.elems → elemAt f (r lane).1 k = code lane k % 2 ^ f.width

/-! ### Memory instructions -/

/-- The parts to perform of accesses that all pass the checks of R251 (or R259 for shared memory) and meet no tile that is
missing, none whose chain left a fault, and nothing a recompute group may not read (R277, R405, R406); nothing earlier keeps the
state of a derived tile from being read (R304 to R313). -/
def View.Passes (v : View) (shared : Bool) (l : List Access) (ps : List Part) : Prop :=
  ∃ (pa : Access → Nat) (place : Access → Place),
    (∀ a ∈ l, (if shared then checkShared v.g a.addr a.len a.align
               else checkAgent v.s v.c v.g.core v.st.walked a.use a.addr a.align) = .ok (pa a) (place a) ∧
      ((a.part (pa a) (place a)).onTile = true → tileUnready v.s v.c a.addr = none ∧
        ∀ f, v.st.chainFault = some f → granule a.addr ≠ f.va)) ∧
    (shared = false → tileStalled v.c v.st.acc l = false ∧ ∀ key, v.g.build = some key → sourcesAllow v.s v.c key l = true) ∧
    ps = l.map fun a => a.part (pa a) (place a)

/-- The instruction is queued: its entry joins the end of the strand's list, a load sent at once where it may be, its path
counter rises, and its PC advances (R274, R304). One whose accesses were checked (`checked`) has used up the walks made for
it. -/
def Enqueues (i : Instr) (s : State) (v : View) (len : Nat) (kind : AccKind) (isLd isSt : Bool) (ps : List Part) (path : Option Nat)
    (frames : List Nat) (checked : Bool) : Prop :=
  Runs i s v fun w => ∃ e : Entry,
    e = { seq := s.nextSeq, kind, isLd, isSt, parts := ps, path, pc := v.st.pc, iw0 := v.iw0, iw1 := v.iw1,
          inRegion := v.st.active, inHandler := v.st.handler.isSome, frames, sent := e.sent } ∧
    e.sent = (isLd && !isSt && ({ e with sent := false } : Entry).sendable v.st.acc) ∧
    w.st = { v.passed len with acc := v.st.acc ++ [e], walked := if checked then [] else v.st.walked,
                               chainFault := if checked then none else v.st.chainFault } ∧
    w.g = (match path with
      | some p => v.g.pathRaise p s.nextSeq
      | none => v.g).putStrand v.j w.st

/-- A memory instruction on accesses `l`: with no acting lane it only advances; where its accesses pass it is queued (R274). -/
def Queues (i : Instr) (s : State) (v : View) (h : Hd) (shared : Bool) (len : Nat) (l : Nat → List Access) (kind : AccKind)
    (isLd isSt : Bool) (path : Nat) : Prop :=
  (v.st.acting h = 0 → Becomes i s v (v.passed len)) ∧
  (v.st.acting h ≠ 0 → ∀ ps, v.Passes shared ((maskLanes (v.st.acting h)).flatMap l) ps →
    Enqueues i s v len kind isLd isSt ps (some path) [] true)

/-! ### Instructions that change their group or wait -/

/-- The instruction runs, its group becomes g but for its own strand, and that strand becomes st. -/
def Leaves (i : Instr) (s : State) (v : View) (g : Group) (st : Strand) : Prop :=
  Runs i s v fun w => w.st = st ∧ w.g = g.putStrand v.j st

/-- The strand after an instruction of `len` bytes that wrote a predicate in every lane of EM. -/
def View.judged (v : View) (len : Nat) (pd : PR) (b : Bool) : Strand :=
  { v.st.setPredEm pd b with pc := v.st.pc + BitVec.ofNat 64 len, readyAt := v.s.clock + 1, issuedAt := some v.s.clock }

/-- The strand in the wait of an instruction of `len` bytes, which stands at its PC. -/
def View.blocked (v : View) (k : WaitKind) (len : Nat) : Strand :=
  { v.st with wait := some { kind := k, since := v.s.clock, len }, readyAt := v.s.clock + 1, issuedAt := some v.s.clock
              walked := [], chainFault := none }

/-- The same of a wait that unmasks its handler as the clock ends (R441). -/
def View.yields (v : View) (k : WaitKind) (len : Nat) : Strand := { v.blocked k len with yield := true }

/-- A group with a tile's owner field changed (R35). -/
def Group.withOwner (g : Group) (t : Nat) (o : Owner) : Group := { g with owner := aset g.owner t o }

/-- What a strand is once it has entered its handler for a trap (R440 step 3, R441). -/
def View.inHandler (v : View) (t : TrapRec) : Strand :=
  { v.st with handler := some { masked := !tbit (sysNat v.s v.c (v.c.trapvec + 8) 4) t.cause, cause := t.cause, kind := t.kind, since := v.s.clock }
              em := v.st.live, pc := BitVec.ofNat 64 (sysNat v.s v.c v.c.trapvec 8), readyAt := v.s.clock + 40, trap := none
              wait := none }

/-- The state in which the strand of a view has taken a trap: its record is written to the trap block, which drops the copies
of its lines in the core's L1, and it stands at the handler's first instruction (R440). -/
def View.trapped (v : View) (t : TrapRec) : State :=
  let at_ := v.c.trapvec + 0x100 + 64 * v.j
  let s := sysWrite v.put v.c at_ (t.bytes false v.j v.st.em)
  putGroup (match sysTrans v.put v.c at_ with
    | some pa => l1Drop s v.g.core pa 64
    | none => s) (v.g.putStrand v.j (v.inHandler t))

/-- A trap of the strand is taken by its handler: it is in none, the block can be read and names one, its record can be written, the
strand's register writes have landed, and it belongs to no recompute group (R440, R444; log 138). -/
def View.takesTraps (v : View) : Prop :=
  v.st.handler = none ∧ sysReads v.s v.c v.c.trapvec 12 = true ∧ sysNat v.s v.c v.c.trapvec 8 ≠ 0 ∧ blockWritable v.s v.c (0x100 + 64 * v.j) 64 = true ∧
  v.st.quiet = true ∧ v.g.build = none

/-! ### Bundles -/

/-- The Capstan of a view acts, between two bundles: the core is not frozen and no result is late (R67). -/
def CapFree (s : State) (v : CapView) : Prop :=
  curCap s = some v ∧ v.awake = true ∧ v.k.part = none ∧ v.k.reenter = none ∧ v.late = false

/-- The Capstan of a view may issue a bundle: it is legal (R63), and its tiles, queues and counters have room (R223, R417). -/
def BundleMay (s : State) (v : CapView) (b : Bundle) : Prop :=
  CapFree s v ∧ illegalBundle b v.g (v.csrWord b) = false ∧ v.room b 0 = true

/-- The same of a bundle that holds slot ix alone. -/
def BundleReady (s : State) (v : CapView) (b : Bundle) (ix : Nat) : Prop :=
  BundleMay s v b ∧ isExt b ix = false ∧ ∀ n ∈ slotIxs, present b n = (n == ix)

/-- A Capstan whose bundle has issued: the next bundle is at pc and issues in a later clock. -/
def CapView.past (v : CapView) (k : Capstan) (pc : DWord) : Capstan :=
  { k with cpc := pc, readyAt := v.s.clock + 1, vcAt := some v.s.clock, slotAt := some v.s.clock }

/-- The bundle issues and commits: one virtual cycle passes (R65), the Capstan becomes k at pc and its group g; memory and every
other group keep what they hold. -/
def Commits (b : Bundle) (s : State) (v : CapView) (pc : DWord) (k : Capstan) (g : Group) : Prop :=
  ∃ t w, exec (.bundleIssue b) s = .next t ∧ capViewOf t v.g.gid = some w ∧ w.k = v.past k pc ∧
    w.g = { g with vcyc := (v.g.vcyc + 1) % 2 ^ 64, cap := some w.k } ∧ t.mem = s.mem ∧
    ∀ n, n ≠ v.g.gid → getGroup t n = getGroup s n

/-- The view in which the first slot of the bundle commits (R65, R231, R432). -/
def CapView.begun (v : CapView) (b : Bundle) : CapView :=
  let k := { v.k with part := some { b, cpc := v.k.cpc, idx := 0, issued := v.g.vcyc, npc := none, seq := v.s.nextSeq },
                      reenter := none, vcAt := some v.s.clock }
  let g := { v.g with vcyc := (v.g.vcyc + 1) % 2 ^ 64 }.putCap k
  let co := getCore v.s v.g.core
  let s := putCore { v.s with nextSeq := v.s.nextSeq + 1 } v.g.core
    { perfCount co 6 1 with weight := co.weight + bundleWeight b 0 }
  { s := putGroup (putCtx s v.c) g, c := v.c, g, k }

/-- The states before each slot of a bundle that issues, up to slot n: a slot that is absent changes nothing, and one that is present
commits in the state that those before it left (R59, R62). -/
def CapView.stages (v : CapView) (b : Bundle) (n : Nat) (at_ : Nat → State) : Prop :=
  at_ 0 = (v.begun b).s ∧ ∀ ix, ix < n → ∃ (w : CapView) (p : PartialBundle), capViewOf (at_ ix) v.g.gid = some w ∧ w.k.part = some p ∧
    p.b = b ∧ p.idx ≤ ix ∧ (present b ix = false → at_ (ix + 1) = at_ ix) ∧
    (present b ix = true → ∃ t, w.commitSlot p ix = .ok t ∧ at_ (ix + 1) = slotDone t v.g.gid ix)

/-- Commit stops at slot ix with a trap, which the slot before it, where there is one, has left the Capstan k to: the trap resumes at
the slot, and memory and every other group keep what they hold (R64, R437). -/
def StopsAt (b : Bundle) (s : State) (v : CapView) (k : Capstan) (ix cause : Nat) (extra : Word) (npc : DWord) : Prop :=
  ∃ (t : State) (w : CapView) (c : CTrap) (p : PartialBundle), exec (.bundleIssue b) s = .next t ∧ capViewOf t v.g.gid = some w ∧
    w.k = { k with part := some p, vcAt := some s.clock, slotAt := w.k.slotAt, traps := [c], walked := [], chainFault := none } ∧
    w.g = { v.g with vcyc := (v.g.vcyc + 1) % 2 ^ 64, cap := some w.k } ∧ t.mem = s.mem ∧ (∀ n, n ≠ v.g.gid → getGroup t n = getGroup s n) ∧
    p.b = b ∧ p.cpc = v.k.cpc ∧ p.idx = ix ∧ c.cause = cause ∧ c.compl = false ∧ c.sresume = ix ∧ c.smask = 2 ^ (8 - ix) ∧ c.extra = extra ∧
    c.bpc = v.k.cpc ∧ c.crpc = v.k.cpc ∧ c.npc = npc ∧ c.slotw = if cause = 0x03 then BitVec.ofNat 64 (slotBits b ix) else 0

/-- An access of the Capstan that joins the end of its queue (R304). -/
def CapView.queued (v : CapView) (seq : Nat) (kind : AccKind) (isLd isSt : Bool) (parts : List Part) (path : Option Nat) : Entry :=
  let e : Entry := { seq, kind, isLd, isSt, parts, path, bpc := v.k.cpc }
  { e with sent := isLd && !isSt && e.sendable v.k.acc }

/-! ### Instructions that change tables -/

/-- The strand's next state where its instruction changed tables: the state s', L1 cleared by the acquire at device scope (R389),
the PC past the instruction, and uniform registers `ss` in flight to land in the next clock (R131). -/
def View.changed (v : View) (len : Nat) (s' : State) (ss : List (Nat × Word)) : State :=
  let f : Flight := { seq := s'.nextSeq, issuedAt := s'.clock, landAt := s'.clock + 1, s := ss }
  View.put { v with s := { acquireL1 s' v.g.core .dev with nextSeq := s'.nextSeq + 1 }
                    st := { v.st with pc := v.st.pc + BitVec.ofNat 64 len, flights := v.st.flights ++ [f] } }

/-- The strand's next state where its instruction changed tables and wrote a predicate in every lane of EM. -/
def View.answered (v : View) (len : Nat) (s' : State) (c : Ctx) (pd : PR) (b : Bool) : State :=
  View.put { v with s := s', c, st := { v.st.setPredEm pd b with pc := v.st.pc + BitVec.ofNat 64 len } }

end Machine

end Sys2Proof
end

