-- ==== Sys2Proof/Certificates/Slice0/Obligations.lean ====
section
/-! DEFINITION. The statements about the machine. Each docstring names the rules of spec/ it formalises. -/

open Sys2Proof Sys2Proof.Machine

/-! ### Registers II: integer, logic, move and uniform instructions -/

/-- IADD, ISUB, IMUL, IMULH, IMAD, IMIN and IMAX: every element of every acting lane is the exact result, clamped under SAT
and else modulo 2^w, and lands with tag 0xFF after 4 or 6 clocks; nothing else changes (R137, R141). IADD64, LEA and IDP4 likewise
(R144, R145); an immediate B of IADD64 is sign-extended from its 32-bit word. -/
def Obligations.IntegerArithmetic : Prop :=
  (∀ (s : State) (v : View) (h : Hd) (f : Fmt) (d a : VR) (b : BSrc) (c : VR) (na nb sat : Bool),
     (Ready s v h (needV .va f [(0, d.val)] [(1, a.val)] b []) →
       ((Instr.iadd h f d a b na nb sat).wf = true → FliesInt (.iadd h f d a b na nb sat) s v h f d b.len 4 sat fun i k =>
         (if na then -v.elemV f a.val i k else v.elemV f a.val i k) + (if nb then -v.elemB f b i k else v.elemB f b i k)) ∧
       ((Instr.isub h f d a b sat).wf = true → FliesInt (.isub h f d a b sat) s v h f d b.len 4 sat fun i k =>
         v.elemV f a.val i k - v.elemB f b i k) ∧
       ((Instr.imul h f d a b sat).wf = true → FliesInt (.imul h f d a b sat) s v h f d b.len 6 sat fun i k =>
         v.elemV f a.val i k * v.elemB f b i k) ∧
       ((Instr.imulh h f d a b).wf = true → FliesInt (.imulh h f d a b) s v h f d b.len 6 false fun i k =>
         v.elemV f a.val i k * v.elemB f b i k / (2 ^ f.width : Nat)) ∧
       ((Instr.imin h f d a b).wf = true → FliesInt (.imin h f d a b) s v h f d b.len 4 false fun i k =>
         min (v.elemV f a.val i k) (v.elemB f b i k)) ∧
       ((Instr.imax h f d a b).wf = true → FliesInt (.imax h f d a b) s v h f d b.len 4 false fun i k =>
         max (v.elemV f a.val i k) (v.elemB f b i k))) ∧
     (Ready s v h (needV .va f [(0, d.val)] [(1, a.val)] b [(3, c.val)]) → (Instr.imad h f d a b c sat).wf = true →
       FliesInt (.imad h f d a b c sat) s v h f d b.len 6 sat fun i k =>
         v.elemV f a.val i k * v.elemB f b i k + v.elemV f c.val i k)) ∧
  (∀ (s : State) (v : View) (h : Hd) (f : Fmt) (d a : VR) (b : BSrc) (c : VR) (nb u mix sat : Bool) (sh : Fin 8),
     (Ready s v h (needV .va .f64 (vNames .f64 0 d) (vNames .f64 1 a) b []) → (Instr.iadd64 h d a b nb).wf = true →
       Flies (.iadd64 h d a b nb) s v b.len 6 (v.results64 h d fun i =>
         let y : DWord := match b with
           | .v n => v.pair n.val i
           | .s n => readSS v.g n.val
           | .imm8 n => n.signExtend 64
           | .imm32 w => w.signExtend 64
         if nb then v.pair a.val i - y else v.pair a.val i + y) []) ∧
     (Ready s v h { port := .va, len := b.len, named := vNames .f64 0 d ++ vNames .f64 1 a ++ b.vs .i32, sregs := b.ss .i32 } →
       Flies (.lea h u d a b sh) s v b.len 6 (v.results64 h d fun i =>
         let y : DWord := if u then (v.bword b i).zeroExtend 64 else (v.bword b i).signExtend 64
         v.pair a.val i + (y <<< sh.val)) []) ∧
     (Ready s v h (needV .va f [(0, d.val)] [(1, a.val)] b [(3, c.val)]) → (Instr.idp4 h f mix sat d a b c).wf = true →
       ∃ word : Nat → Word, Flies (.idp4 h f mix sat d a b c) s v b.len 6 (v.results h d word) [] ∧
         ∀ i, let other : Fmt := if mix then (if f = .i8 then .ui8 else .i8) else f
           let at_ := fun k => elemInt f (v.srcV f a.val i).code k * elemInt other (v.srcB f b i).code k
           (word i).toNat = intResult .i32 sat ((v.word c.val i).toInt + at_ 0 + at_ 1 + at_ 2 + at_ 3)))

/-- AND, OR, XOR and BLUT work on whole words bit by bit; SHL, SHR, SAR and SHD: the amount is B as an unsigned word; 32 or more
gives 0, or copies of the sign; SHD shifts C:A by min(m, 32), or by m mod 32 with .mod; POPC, CLZ, BREV, BFE and BFI (R143). -/
def Obligations.WordBits : Prop :=
  (∀ (s : State) (v : View) (h : Hd) (d a : VR) (b : BSrc) (c : VR) (tab : BitVec 8),
     (Ready s v h (needV .vx .b32 [(0, d.val)] [(1, a.val)] b []) →
       Flies (.band h d a b) s v b.len 4 (v.results h d fun i => v.word a.val i &&& v.bword b i) [] ∧
       Flies (.bor h d a b) s v b.len 4 (v.results h d fun i => v.word a.val i ||| v.bword b i) [] ∧
       Flies (.bxor h d a b) s v b.len 4 (v.results h d fun i => v.word a.val i ^^^ v.bword b i) []) ∧
     (Ready s v h (needV .vx .b32 [(0, d.val)] [(1, a.val)] b [(3, c.val)]) →
       ∃ word : Nat → Word, Flies (.blut h d a b c tab) s v b.len 4 (v.results h d word) [] ∧
         ∀ i n, n < 32 → (word i).getLsbD n =
           tab.getLsbD (((v.word a.val i).getLsbD n).toNat + 2 * ((v.bword b i).getLsbD n).toNat + 4 * ((v.word c.val i).getLsbD n).toNat))) ∧
  (∀ (s : State) (v : View) (h : Hd) (d a : VR) (b : BSrc) (c : VR) (left md : Bool),
     (Ready s v h (needV .vx .b32 [(0, d.val)] [(1, a.val)] b []) →
       Flies (.shl h d a b) s v b.len 4 (v.results h d fun i => v.word a.val i <<< (v.bword b i).toNat) [] ∧
       Flies (.shr h d a b) s v b.len 4 (v.results h d fun i => v.word a.val i >>> (v.bword b i).toNat) [] ∧
       Flies (.sar h d a b) s v b.len 4 (v.results h d fun i => (v.word a.val i).sshiftRight (v.bword b i).toNat) []) ∧
     (Ready s v h (needV .vx .b32 [(0, d.val)] [(1, a.val)] b [(3, c.val)]) →
       Flies (.shd h left md d a b c) s v b.len 4 (v.results h d fun i =>
         let m := if md then (v.bword b i).toNat % 32 else min (v.bword b i).toNat 32
         let x : BitVec 64 := v.word c.val i ++ v.word a.val i
         if left then (x <<< m).extractLsb' 32 32 else (x >>> m).extractLsb' 0 32) [])) ∧
  (∀ (s : State) (v : View) (h : Hd) (f : Fmt) (d a : VR) (b : BSrc) (c : VR),
     (Ready s v h (needV .vx .b32 [(0, d.val)] [(1, a.val)] (.imm8 0) []) →
       (∃ word : Nat → Word, Flies (.popc h d a) s v 8 4 (v.results h d word) [] ∧
         ∀ i, (word i).toNat = ((List.range 32).filter fun n => (v.word a.val i).getLsbD n).length) ∧
       (∃ word : Nat → Word, Flies (.clz h d a) s v 8 4 (v.results h d word) [] ∧
         ∀ i, (v.word a.val i = 0 → (word i).toNat = 32) ∧
           ∀ n, n < 32 → (v.word a.val i).getLsbD n = true → (∀ m, n < m → (v.word a.val i).getLsbD m = false) → (word i).toNat = 31 - n) ∧
       (∃ word : Nat → Word, Flies (.brev h d a) s v 8 4 (v.results h d word) [] ∧
         ∀ i n, n < 32 → (word i).getLsbD (31 - n) = (v.word a.val i).getLsbD n)) ∧
     (Ready s v h (needV .vx f [(0, d.val)] [(1, a.val)] b []) → (Instr.bfe h f d a b).wf = true →
       ∃ word : Nat → Word, Flies (.bfe h f d a b) s v b.len 4 (v.results h d word) [] ∧
         ∀ i, let w := v.word a.val i
           let y := (v.srcB f b i).code
           let len := min (y / 256 % 256) 32
           let fld := fun n => if y % 256 + n < 32 then w.getLsbD (y % 256 + n) else (f == .i32 && w.getLsbD 31)
           ∀ n, n < 32 → (word i).getLsbD n = (if n < len then fld n else (f == .i32 && len != 0 && fld (len - 1)))) ∧
     (Ready s v h (needV .vx .b32 [(0, d.val)] [(1, a.val)] b [(3, c.val)]) →
       ∃ word : Nat → Word, Flies (.bfi h d a b c) s v b.len 4 (v.results h d word) [] ∧
         ∀ i, let pos := (v.bword b i).toNat % 256
           let len := min ((v.bword b i).toNat / 256 % 256) 32
           ∀ n, n < 32 → (word i).getLsbD n =
             if pos ≤ n ∧ n < pos + len then (v.word a.val i).getLsbD (n - pos) else (v.word c.val i).getLsbD n))

/-- ISETP, VOTE, PRMOV.copy, PRMOV.unpack, FSETP and SIGQ write predicates in the acting lanes alone (R126, R145, R150, R153);
FSETP compares as R168 says, SIGQ tests tracked counts against a threshold (R168, R183). The next reader and writer of what they
write waits for their latency: 4 clocks, 6 for VOTE, 2 for PRMOV, 8 for FSETP under F64 (R137, R162). That the predicate itself is
written in the step that issues, and that only its readers and writers wait, is the model's choice (log 31). -/
def Obligations.PredicateWrites : Prop :=
  (∀ (s : State) (v : View) (h : Hd) (f : Fmt) (cmp : Cmp) (pd pa : PR) (a : VR) (b : BSrc) (comb : Comb) (mode : VoteMode) (neg : Bool),
     (Ready s v h { needV .va f [] [(1, a.val)] b [] with preds := pd :: comb.reads } → (Instr.isetp h f cmp pd a b comb).wf = true →
       Predicates (.isetp h f cmp pd a b comb) s v b.len 4 [pd] (v.predWrite h pd (Comb.value comb v fun i =>
         let x := v.elemV f a.val i 0
         let y := v.elemB f b i 0
         match cmp with
         | .eq => x == y
         | .ne => x != y
         | .lt => decide (x < y)
         | .le => decide (x ≤ y)
         | .gt => decide (x > y)
         | _ => decide (x ≥ y)))) ∧
     (Ready s v h { port := .vx, len := 8, preds := [pd, pa] } →
       Predicates (.vote h mode pd pa neg) s v 8 6 [pd] (v.predWrite h pd fun _ =>
         let holds := fun i => (v.st.pred pa).getLsbD i != neg
         let acting := maskLanes (v.st.acting h)
         match mode with
         | .all => acting.all holds
         | .any => acting.any holds
         | .uni => acting.all holds || acting.all fun i => !holds i)) ∧
     (Ready s v h { port := .ctl, len := 8, preds := [pd, pa] } →
       Predicates (.prmov h (.copy pd pa neg)) s v 8 2 [pd] (v.predWrite h pd fun i => (v.st.pred pa).getLsbD i != neg)) ∧
     (Ready s v h { port := .ctl, len := b.len, named := [(1, a.val)], sregs := b.ss .b32, preds := BSrc.unpacks b } →
       Predicates (.prmov h (.unpack a b)) s v b.len 2 (([0, 1, 2, 3, 4, 5, 6] : List PR).filter fun n => (v.bword b 0).getLsbD n.val) fun n lane =>
         if (v.st.acting h).getLsbD lane && (v.bword b 0).getLsbD n.val then (v.word a.val lane).getLsbD n.val
         else (v.st.pred n).getLsbD lane)) ∧
  (∀ (s : State) (v : View) (h : Hd) (f : Fmt) (cmp : Cmp) (m : Mods) (pd : PR) (a : VR) (b : BSrc) (comb : Comb) (e1 : Bool) (sel : Fin 9),
     (Ready s v h { needV .va f [] (vNames f 1 a) b [] with
         f64 := f == .f64, occ := if f = .f64 then 2 else 1, preds := pd :: comb.reads } →
       (Instr.fsetp h f cmp m pd a b comb e1).wf = true →
       Predicates (.fsetp h f cmp m pd a b comb e1) s v b.len (if f = .f64 then 8 else 4) [pd] (v.predWrite h pd (Comb.value comb v fun i =>
         let x := m.onA (v.numV f a.val i e1.toNat)
         let y := m.onB (v.numB f b i e1.toNat)
         if x.isNan || y.isNan then cmp == .ne || cmp == .nan
         else match cmp with
           | .eq => !x.lt false y && !y.lt false x
           | .ne => x.lt false y || y.lt false x
           | .lt => x.lt false y
           | .le => !y.lt false x
           | .gt => y.lt false x
           | .ge => !x.lt false y
           | .num => true
           | .nan => false))) ∧
     (Ready s v h { port := .vx, len := b.len, f64 := f == .f64, named := vNames f 1 a ++ b.vs .b32, sregs := b.ss .b32,
                    preds := pd :: comb.reads } →
       (Instr.sigq h f sel pd a b comb).wf = true →
       Predicates (.sigq h f sel pd a b comb) s v b.len 4 [pd] (v.predWrite h pd (Comb.value comb v fun i =>
         (List.range f.elems).any fun k => (sel.val == 0 || sel.val == k + 1) &&
           ((v.srcV f a.val i).count f k).2 && decide (((v.srcV f a.val i).count f k).1 < (v.bword b i).toNat)))))

/-- MOV and SEL copy a word or pair with its tag; a uniform register or immediate has tag 0xFF (R147). SHFL reads across
lanes, BALLOT gathers a predicate, RDSPEC and PRMOV.pack read what the strand holds (R148 to R151, R153), where no lane of A
that it reads holds an error: an exited lane reads as 0 with tag 0, a source out of the segment gives the lane's own word. -/
def Obligations.Moves : Prop :=
  (∀ (s : State) (v : View) (h : Hd) (f : Fmt) (d a : VR) (b : BSrc) (pc : PR) (neg : Bool),
     (Ready s v h { needV .va f (vNames f 0 d) [] b [] with f64 := f == .f64 } →
       Flies (.mov h f d b) s v b.len 4 (v.copies h f d fun k i => v.copied f b k i) []) ∧
     (Ready s v h { needV .va f (vNames f 0 d) (vNames f 1 a) b [] with f64 := f == .f64, preds := [pc] } →
       Flies (.sel h f d a b pc neg) s v b.len 4 (v.copies h f d fun k i =>
         if (v.st.pred pc).getLsbD i != neg then readV v.g v.st (a.val + k) i else v.copied f b k i) [])) ∧
  (∀ (s : State) (v : View) (h : Hd) (mode : ShflMode) (d a : VR) (b : BSrc) (logw : Fin 6) (pa : PR) (neg : Bool) (name : Spec),
     (Ready s v h { needV .vx .b32 [(0, d.val)] [(1, a.val)] b [] with unchecked := [1] } →
       v.badLanes a.val (v.shflReads h mode logw.val b) = 0 →
       Flies (.shfl h mode d a b logw) s v b.len 6 (v.vwrites d.val (v.st.acting h) fun i =>
         let w : Int := 2 ^ logw.val
         let base : Int := (i : Int) / w * w
         let j : Int := match mode with
           | .idx => base + (v.bword b i).toNat
           | .up => (i : Int) - (v.bword b i).toNat
           | .down => (i : Int) + (v.bword b i).toNat
           | .xor => ((i ^^^ (v.bword b i).toNat : Nat) : Int)
         if base ≤ j ∧ j < base + w then
           (if v.st.live.getLsbD j.toNat then readV v.g v.st a.val j.toNat else (0, 0))
         else readV v.g v.st a.val i) []) ∧
     (Ready s v h { port := .vx, len := 8, named := [(0, d.val)], preds := [pa] } →
       ∃ word : Word, Flies (.ballot h d pa neg) s v 8 6 (v.results h d fun _ => word) [] ∧
         ∀ n, n < 32 → word.getLsbD n = ((v.st.acting h).getLsbD n && (v.st.pred pa).getLsbD n != neg)) ∧
     (Ready s v h { port := .ctl, len := 8, named := [(0, d.val)] } →
       Flies (.rdspec h d name) s v 8 2 (v.results h d fun i => match name with
         | .lane => BitVec.ofNat 32 i
         | .strandix => BitVec.ofNat 32 v.j
         | .role => BitVec.ofNat 32 v.st.role
         | .threadix => BitVec.ofNat 32 (32 * v.j + i)
         | .roleix => BitVec.ofNat 32 (v.j - v.g.strands.findIdx fun x => x.role == v.st.role)
         | .coreslot => BitVec.ofNat 32 v.st.slot
         | .partition => BitVec.ofNat 32 (v.st.slot / 8)
         | .vcyclo => BitVec.ofNat 32 v.g.vcyc
         | .vcychi => BitVec.ofNat 32 (v.g.vcyc / 2 ^ 32)
         | .ntiles => BitVec.ofNat 32 ((List.range 32).filter fun k => v.st.mapped (8 * k)).length) []) ∧
     (Ready s v h { port := .ctl, len := 8, named := [(0, d.val)], preds := [0, 1, 2, 3, 4, 5, 6] } →
       ∃ word : Nat → Word, Flies (.prmov h (.pack d)) s v 8 2 (v.results h d word) [] ∧
         ∀ i n, i < 32 → n < 32 → (word i).getLsbD n = (if h7 : n < 7 then (v.st.p[n]).getLsbD i else n == 7)))

/-- EMRD, UALU, UMOV and UMOV.lane write uniform registers, which land after 2 clocks, or 4 under F32; they act once (R131,
R137, R139, R152, R154, R155). EMWR, EMPUSH, EMFLIP and EMPOP write EM, and what they write is ANDed with LIVE (R128, R152,
R243); its next reader waits 2 clocks (R137 for EMWR; for the other three this is the model's choice, log 31). -/
def Obligations.UniformResults : Prop :=
  (∀ (s : State) (v : View) (h : Hd) (live : Bool) (sd sa : SR) (f : Fmt) (op : UOp) (sat : Bool) (b : BSrc) (a : VR),
     (Ready s v h { port := .ctl, len := 8, sregs := [sd.val], em := !live } →
       Once (.emrd h live sd) s v h 8 (Flies (.emrd h live sd) s v 8 2 [] [(sd.val, if live then v.st.live else v.st.em)])) ∧
     (Ready s v h { port := .ctl, len := b.len, sregs := [sd.val, sa.val] ++ b.ss f, em := false } → (Instr.ualu h f op sat sd sa b).wf = true →
       Once (.ualu h f op sat sd sa b) s v h b.len (∃ w : Word,
         Flies (.ualu h f op sat sd sa b) s v b.len (if f = .f32 then 4 else 2) [] [(sd.val, w)] ∧
         let x := readS v.g sa.val
         let y : Word := BitVec.ofNat 32 (v.srcB f b 0).code
         let xi := elemInt f x.toNat 0
         let yi := elemInt f y.toNat 0
         (f ≠ .f32 → match op with
           | .add => w.toNat = intResult f sat (xi + yi)
           | .sub => w.toNat = intResult f sat (xi - yi)
           | .mul => w.toNat = intResult f sat (xi * yi)
           | .min => w.toNat = intResult f false (min xi yi)
           | .max => w.toNat = intResult f false (max xi yi)
           | .and => w = x &&& y
           | .or => w = x ||| y
           | .xor => w = x ^^^ y
           | .shl => w = x <<< y.toNat
           | .shr => w = x >>> y.toNat
           | .sar => w = x.sshiftRight y.toNat) ∧
         (f = .f32 → ∀ r : Machine.Num, (numOf .f32 x.toNat).isNan = false → (numOf .f32 y.toNat).isNan = false → r ≠ .bad →
           (op = .add ∧ r = (numOf .f32 x.toNat).add false (numOf .f32 y.toNat)) ∨
             (op = .mul ∧ r = (numOf .f32 x.toNat).mul (numOf .f32 y.toNat)) →
           w.toNat = (roundTo .f32 r .rn false 0).code))) ∧
     (Ready s v h { port := .ctl, len := b.len, unchecked := [1], em := false, sregs := sd.val :: b.ss .b32 } →
       Once (.umov h sd none b) s v h b.len (Flies (.umov h sd none b) s v b.len 2 [] [(sd.val, v.bword b 0)])) ∧
     (Ready s v h { port := .ctl, len := b.len, named := [(1, a.val)], unchecked := [1], em := false, sregs := sd.val :: b.ss .b32 } →
       Once (.umov h sd (some a) b) s v h b.len (v.badLanes a.val (v.st.live &&& (1#32 <<< ((v.bword b 0).toNat % 32))) = 0 → Flies (.umov h sd (some a) b) s v b.len 2 []
         [(sd.val, let j := (v.bword b 0).toNat % 32; if v.st.live.getLsbD j then v.word a.val j else 0)]))) ∧
  (∀ (s : State) (v : View) (h : Hd) (b : BSrc) (sd : SR) (pn : PR) (neg : Bool),
     (Ready s v h { port := .ctl, len := b.len, sregs := b.ss .b32 } →
       Once (.emwr h b) s v h b.len (Becomes (.emwr h b) s v (v.holding { v.passed b.len with em := v.bword b 0 &&& v.st.live } 2 [] true))) ∧
     (Ready s v h { port := .ctl, len := 8, sregs := [sd.val], preds := [pn] } →
       Once (.empush h sd pn neg) s v h 8 (Becomes (.empush h sd pn neg) s v { v.passed 8 with
         em := v.st.em &&& (if neg then ~~~(v.st.pred pn) else v.st.pred pn) &&& v.st.live
         flights := v.st.flights ++ [
           { seq := s.nextSeq, issuedAt := s.clock, landAt := s.clock + 2, s := [(sd.val, v.st.em)] },
           { seq := s.nextSeq + 1, issuedAt := s.clock, landAt := s.clock + 2, em := true }] })) ∧
     (Ready s v h { port := .ctl, len := 8, sregs := [sd.val] } →
       Once (.emflip h sd) s v h 8 (Becomes (.emflip h sd) s v (v.holding { v.passed 8 with
         em := readS v.g sd.val &&& ~~~v.st.em &&& v.st.live } 2 [] true)) ∧
       Once (.empop h sd) s v h 8 (Becomes (.empop h sd) s v (v.holding { v.passed 8 with
         em := readS v.g sd.val &&& v.st.live } 2 [] true))))

/-! ### Registers III: floating-point, conversion and significance instructions -/

/-- FADD, FMUL, FFMA, FMIN, FMAX and FDIV round the exact result once, in every element of every acting lane, and the
result lands after 4 clocks, 8 under F64, 24 or 40 for FDIV (R105, R162, R166, R167). -/
def Obligations.FloatArithmetic : Prop :=
  ∀ (s : State) (v : View) (h : Hd) (f : Fmt) (mode : RMode) (m : Mods) (d a : VR) (b : BSrc) (c : VR),
    let A := fun i k => m.onA (v.numV f a.val i k)
    let B := fun i k => m.onB (v.numB f b i k)
    let C := fun i k => v.numV f c.val i k
    let lat := if f = .f64 then 8 else 4
    (Ready s v h (needF .va (if f = .f64 then 2 else 1) f d a b none) →
      ((Instr.fadd h f mode m d a b).wf = true → FliesCodes (.fadd h f mode m d a b) s v h f d b.len lat fun i k =>
        v.fpCode f mode m.sat i [A i k, B i k] ((A i k).add (mode = .rd) (B i k))) ∧
      ((Instr.fmul h f mode m d a b).wf = true → FliesCodes (.fmul h f mode m d a b) s v h f d b.len lat fun i k =>
        v.fpCode f mode m.sat i [A i k, B i k] ((A i k).mul (B i k))) ∧
      ((Instr.fmin h f m d a b).wf = true → FliesCodes (.fmin h f m d a b) s v h f d b.len lat fun i k =>
        v.fpCode f .rn false i [A i k, B i k] (if (B i k).lt true (A i k) then B i k else A i k)) ∧
      ((Instr.fmax h f m d a b).wf = true → FliesCodes (.fmax h f m d a b) s v h f d b.len lat fun i k =>
        v.fpCode f .rn false i [A i k, B i k] (if (A i k).lt true (B i k) then B i k else A i k))) ∧
    (Ready s v h (needF .va (if f = .f64 then 2 else 1) f d a b (some c)) → (Instr.ffma h f mode m d a b c).wf = true →
      FliesCodes (.ffma h f mode m d a b c) s v h f d b.len lat fun i k =>
        v.fpCode f mode m.sat i [A i k, B i k, C i k] (((A i k).mul (B i k)).add (mode = .rd) (C i k))) ∧
    (Ready s v h (needF .va (if f = .f64 then 8 else 4) f d a b none) → (Instr.fdiv h f mode m d a b).wf = true →
      FliesCodes (.fdiv h f mode m d a b) s v h f d b.len (if f = .f64 then 40 else 24) fun i k =>
        v.fpCode f mode m.sat i [A i k, B i k] ((A i k).div (B i k)))

/-- FRCP, FSQRT, FRSQ, FEXP2, FLOG2, FSIN, FCOS and FTANH round their function once, and the special operands give what R172
lists; the function's own value is the model's (log 12). -/
def Obligations.FloatFunctions : Prop :=
  (∀ (s : State) (v : View) (h : Hd) (f : Fmt) (mode : RMode) (m : Mods) (d a : VR),
    Ready s v h (needF .vx (if f = .f64 then 8 else 4) f d a (.imm8 0) none) →
    let flies := fun (i : Instr) (g : Fn) => i.wf = true → FliesCodes i s v h f d 8 (if f = .f64 then 32 else 16) fun lane k =>
      let x := m.onA (v.numV f a.val lane k)
      v.fpCode f mode m.sat lane [x] (g.apply x)
    flies (.frcp h f mode m d a) .rcp ∧ flies (.fsqrt h f mode m d a) .sqrt ∧ flies (.frsq h f mode m d a) .rsq ∧
    flies (.fexp2 h f mode m d a) .exp2 ∧ flies (.flog2 h f mode m d a) .log2 ∧ flies (.fsin h f mode m d a) .sin ∧
    flies (.fcos h f mode m d a) .cos ∧ flies (.ftanh h f mode m d a) .tanh) ∧
  (∀ (n : Bool) (m : Nat) (e : Int),
    let zero := Machine.Num.fin n 0 e
    let inf := Machine.Num.inf n
    Fn.rcp.apply zero = inf ∧ (Fn.rcp.apply inf).isZero = true ∧ (Fn.rcp.apply inf).neg = n ∧
    Fn.sqrt.apply zero = zero ∧ Fn.sqrt.apply (.inf false) = .inf false ∧
    Fn.rsq.apply zero = inf ∧ (Fn.rsq.apply (.inf false)) = .fin false 0 0 ∧
    Fn.exp2.apply (.inf true) = .fin false 0 0 ∧ Fn.exp2.apply (.inf false) = .inf false ∧
    Fn.log2.apply zero = .inf true ∧ (Fn.log2.apply (.fin false 1 0)).isZero = true ∧ Fn.log2.apply (.inf false) = .inf false ∧
    Fn.sin.apply zero = zero ∧ Fn.sin.apply inf = .bad ∧
    (Fn.cos.apply zero).eq (.fin false 1 0) = true ∧ Fn.cos.apply inf = .bad ∧
    Fn.tanh.apply zero = zero ∧ (Fn.tanh.apply inf).eq (.fin n 1 0) = true ∧
    (m ≠ 0 → Fn.sqrt.apply (.fin true m e) = .bad ∧ Fn.rsq.apply (.fin true m e) = .bad ∧ Fn.log2.apply (.fin true m e) = .bad))

/-- FCLASS, NANPL, SIGGET, SIGSET and SIGMIN (R169, R181, R184, R185, R186). The counts of FADD, FMUL and FDIV (R112, R116,
R117). With nonzero operands and a normal result: the multiply rule takes the lesser count, one less when neither is full; the
add rule keeps the digits above the higher trusted position. Beside a nonzero operand, a zero operand with full count is left
out of an add and one below full makes its count 0; a zero from nonzero operands, an overflow, a NaN operand and an invalid operation
have count 0. -/
def Obligations.ClassesAndCounts : Prop :=
  (∀ (s : State) (v : View) (h : Hd) (f : Fmt) (d a : VR) (b : BSrc) (e1 : Bool) (k : Fin 8) (sd : SR),
     (Ready s v h { port := .vx, len := 8, f64 := f == .f64, named := (0, d.val) :: vNames f 1 a } →
       ((Instr.fclass h f d a).wf = true → ∃ word : Nat → Word, Flies (.fclass h f d a) s v 8 4 (v.results h d word) [] ∧
         ∀ i j, j < 8 → bits (word i).toNat (4 * j + 3) (4 * j) = if f.elems ≤ j then 0 else
           let code := elemAt f (v.srcV f a.val i).code j
           if f = .fp4 ∧ code = 8 then 10 else match numOf f code with
             | .inf n => if n then 0 else 7
             | .nan .. => if f = .m8 ∨ tbit code (quietBit f) = true then 8 else 9
             | .fin n 0 _ => if n then 3 else 4
             | .fin n mg e => if (Machine.Num.fin n mg e).expo < f.emin then (if n then 2 else 5) else (if n then 1 else 6)
             | .bad => 0) ∧
       ((Instr.sigget h f d a k).wf = true → Flies (.sigget h f d a k) s v 8 4 (v.results h d fun i =>
         let c := (v.srcV f a.val i).count f k.val
         if c.2 then BitVec.ofNat 32 c.1 else 0xFFFFFFFF) [])) ∧
     (Ready s v h { port := .vx, len := 8, named := [(0, d.val), (1, a.val)] } → (Instr.nanpl h f d a e1).wf = true →
       ∃ word : Nat → Word, Flies (.nanpl h f d a e1) s v 8 4 (v.results h d word) [] ∧
         ∀ i, let code := elemAt f (v.srcV f a.val i).code e1.toNat
           ((numOf f code).isNan = false → word i = 0) ∧
           ((numOf f code).isNan = true → (word i).getLsbD 31 = true ∧ (word i).getLsbD 30 = tbit code (quietBit f) ∧
             (word i).getLsbD 29 = (f == .f32) ∧ (word i).getLsbD 28 = (f != .f16) ∧ (word i).extractLsb' 22 6 = 0 ∧
             ((word i).extractLsb' 17 5).toNat = (if f = .f32 then bits code 21 17 else if f = .f16 then bits code 8 4 else bits code 5 1) ∧
             (word i).getLsbD 16 = (if f = .f32 then tbit code 16 else f == .bf16 && tbit code 0) ∧
             ((word i).extractLsb' 0 16).toNat = (if f = .f32 then code % 2 ^ 16 else if f = .f16 then code % 16 else 0))) ∧
     (Ready s v h { port := .vx, len := b.len, f64 := f == .f64, readsD := true, named := vNames f 0 d ++ b.vs .b32,
                    sregs := b.ss .b32 } → (Instr.sigset h f d b k).wf = true →
       ∃ tag : Nat → Byte, Flies (.sigset h f d b k) s v b.len 4
           (v.resultWrites f d.val (v.st.acting h) fun i => ((v.srcV f d.val i).code, tag i)) [] ∧
         ∀ i, let code := elemAt f (v.srcV f d.val i).code k.val
           (v.bword b i = 0xFFFFFFFF → tag i = 0xFF) ∧
           (v.bword b i ≠ 0xFFFFFFFF → tag i = countPut f (v.srcV f d.val i).tag k.val (min (v.bword b i).toNat (f.prec code)) code)) ∧
     (Ready s v h { port := .ctl, len := 8, f64 := f == .f64, named := vNames f 1 a, sregs := [sd.val] } → (Instr.sigmin h f sd a).wf = true →
       Once (.sigmin h f sd a) s v h 8 (∃ w : Word, Flies (.sigmin h f sd a) s v 8 6 [] [(sd.val, w)] ∧
         let tracked := fun i j => i < 32 ∧ (v.st.acting h).getLsbD i = true ∧ j < f.elems ∧ ((v.srcV f a.val i).count f j).2 = true
         ((∀ i j, ¬ tracked i j) → w = 0xFFFFFFFF) ∧
         ∀ i j, tracked i j → (∀ i' j', tracked i' j' → ((v.srcV f a.val i).count f j).1 < ((v.srcV f a.val i').count f j').1 ∨
             (((v.srcV f a.val i).count f j).1 = ((v.srcV f a.val i').count f j').1 ∧ (i < i' ∨ (i = i' ∧ j ≤ j')))) →
           w.toNat = ((v.srcV f a.val i).count f j).1 + i * 2 ^ 8 + j * 2 ^ 13))) ∧
  (∀ (f : Fmt) (mode : RMode) (sat : Bool) (o : NanSrc) (a b c : Opd), (f = .f32 ∨ f = .f16 ∨ f = .bf16 ∨ f = .f64) →
     let p := f.prec 0
     let r := fun (op : FOp) => numOf f (fpElem op f mode sat o a b c).1
     let count := fun (op : FOp) => (fpElem op f mode sat o a b c).2
     let normal := fun (op : FOp) (x : Machine.Num) => x.isNonzero = true ∧ (roundTo f x mode sat 0).ovf = false ∧
       (r op).isNonzero = true ∧ f.emin ≤ (r op).expo
     let tau := fun (u : Opd) => u.x.expo - (u.c : Int) + 1
     let product := min p (if a.full || b.full then min a.c b.c else min a.c b.c - 1)
     let sum := fun (t : Int) => (max 0 (min (p : Int) ((r .add).expo - t + 1))).toNat
     (a.x.isNonzero = true → b.x.isNonzero = true →
       (normal .mul (a.x.mul b.x) → count .mul = some product) ∧
       (normal .div (a.x.div b.x) → count .div = some product) ∧
       (normal .add (a.x.add (mode = .rd) b.x) → count .add = some (sum (max (tau a) (tau b)))) ∧
       ((r .add).isZero = true → count .add = some 0)) ∧
     (a.x.isNonzero = true → b.x.isZero = true → normal .add (a.x.add (mode = .rd) b.x) →
       count .add = some (if b.full then sum (tau a) else 0)) ∧
     (a.x.isZero = true → b.x.isNonzero = true → normal .add (a.x.add (mode = .rd) b.x) →
       count .add = some (if a.full then sum (tau b) else 0)) ∧
     (a.x.isNan = true ∨ b.x.isNan = true → count .add = some 0 ∧ count .mul = some 0 ∧ count .div = some 0) ∧
     (a.x.isNan = false → b.x.isNan = false →
       ((roundTo f (a.x.add (mode = .rd) b.x) mode sat 0).ovf = true ∨ a.x.add (mode = .rd) b.x = .bad → count .add = some 0) ∧
       ((roundTo f (a.x.mul b.x) mode sat 0).ovf = true ∨ a.x.mul b.x = .bad → count .mul = some 0) ∧
       ((roundTo f (a.x.div b.x) mode sat 0).ovf = true ∨ a.x.div b.x = .bad → count .div = some 0)))

/-- FDOT2, DQNT and ANGROT round an exact sum or product once into F32 (R170, R177, R180). Every word that ANGROT writes is the first
NaN operand, in the order x, y, w, where there is one, and an origin NaN where the position is 2^24 or more or the angle is infinite
(R180). -/
def Obligations.DotScaleRotate : Prop :=
  ∀ (s : State) (v : View) (h : Hd) (f : Fmt) (mode : RMode) (m : Mods) (op : AngOp) (d a : VR) (b : BSrc) (c : VR) (part : Fin 8),
    (Ready s v h (needV .va f [(0, d.val)] [(1, a.val)] b [(3, c.val)]) → (Instr.fdot2 h f mode m d a b c).wf = true →
      FliesCodes (.fdot2 h f mode m d a b c) s v h .f32 d b.len 6 fun i _ =>
        let A := fun k => if m.na then (v.numV f a.val i k).negate else v.numV f a.val i k
        let B := fun k => if m.nb then (v.numB f b i k).negate else v.numB f b i k
        let C := v.numV .f32 c.val i 0
        v.fpCode .f32 mode m.sat i [A 0, A 1, B 0, B 1, C]
          ((((A 0).mul (B 0)).add (mode = .rd) ((A 1).mul (B 1))).add (mode = .rd) C)) ∧
    (Ready s v h (needV .vx .f32 [(0, d.val)] [(1, a.val)] b []) → (Instr.dqnt h f mode d a b part).wf = true →
      FliesCodes (.dqnt h f mode d a b part) s v h .f32 d b.len 6 fun i _ =>
        let A := v.numV f a.val i part.val
        let B := v.numB .f32 b i 0
        if A.isNan then originNan .f32 (v.nan i) else v.fpCode .f32 mode false i [B] (A.mul B)) ∧
    (Ready s v h { port := .vx, occ := 4, len := b.len, sregs := b.ss .b32,
                   named := (if op = .rot then [(0, d.val), (0, d.val + 1), (1, a.val), (1, a.val + 1)] else [(0, d.val)]) ++
                     b.vs .b32 ++ [(3, c.val)] } →
      let rot := decide (op = .rot)
      ∃ w : Nat → Nat → Word × Byte, Becomes (.angrot h op d a b c) s v { v.passed b.len with
          flights := v.st.flights ++ [{
            seq := s.nextSeq, issuedAt := s.clock, landAt := s.clock + (if rot then 22 else 18)
            v := v.vwrites d.val (v.st.acting h) (w 0) ++ (if rot then v.vwrites (d.val + 1) (v.st.acting h) (w 1) else [])
            chk := v.sigCheck h .f32 (if rot then [d.val, d.val + 1] else [d.val]) 1 }] } ∧
        ∀ i, let pos := (v.bword b i).toNat
          let W := v.numV .f32 c.val i 0
          let X := v.numV .f32 a.val i 0
          let Y := v.numV .f32 (a.val + 1) i 0
          let th := (Machine.Num.fin false pos 0).mul W
          let co := numOf .f32 (roundTo .f32 (Fn.cos.apply th) .rn false 0).code
          let si := numOf .f32 (roundTo .f32 (Fn.sin.apply th) .rn false 0).code
          let finite := pos < 2 ^ 24 ∧ W.isNan = false ∧ Fn.cos.apply th ≠ .bad ∧ Fn.sin.apply th ≠ .bad
          (finite → op = .cos → (w 0 i).1.toNat = (roundTo .f32 co .rn false 0).code % 2 ^ 32) ∧
          (finite → op = .sin → (w 0 i).1.toNat = (roundTo .f32 si .rn false 0).code % 2 ^ 32) ∧
          (finite → op = .rot → X.isNan = false → Y.isNan = false →
            (w 0 i).1.toNat = v.fpCode .f32 .rn false i [] ((X.mul co).add false (Y.mul si.negate)) % 2 ^ 32 ∧
            (w 1 i).1.toNat = v.fpCode .f32 .rn false i [] ((X.mul si).add false (Y.mul co)) % 2 ^ 32) ∧
          (∀ n, firstNan (if op = .rot then [X, Y, W] else [W]) = some n →
            (w 0 i).1.toNat = n.nanCode .f32 (v.nan i) % 2 ^ 32 ∧ (op = .rot → (w 1 i).1.toNat = n.nanCode .f32 (v.nan i) % 2 ^ 32)) ∧
          (firstNan (if op = .rot then [X, Y, W] else [W]) = none →
            2 ^ 24 ≤ pos ∨ Fn.cos.apply th = .bad ∨ Fn.sin.apply th = .bad →
            (w 0 i).1.toNat = originNan .f32 (v.nan i) % 2 ^ 32 ∧
            (op = .rot → (w 1 i).1.toNat = originNan .f32 (v.nan i) % 2 ^ 32)))

/-- CVT and QNT convert their elements in order, each with its own draw of the lane's generator under RS; other elements of D
keep their bits; QSAT and QUND receive what saturated and what became zero (R100, R174, R175, R177, R178). An element of CVT is
rounded, a NaN maps to the destination's, an integer becomes an integer clamped under SAT or modulo 2^w; an element of QNT is the
quotient, rounded. That under RS every inexact element draws, one out of range too, and which NaN a pair of formats gives where R106 is
read for it, are the model's reading (logs 33 and 13). -/
def Obligations.Conversions : Prop :=
  ∀ (s : State) (v : View) (h : Hd) (f src : Fmt) (mode : RMode) (m : Mods) (sat : Bool) (d a : VR) (b : BSrc) (part : Fin 8),
    let converts := fun (i : Instr) (len : Nat) (pairs : List (Nat × Nat)) (counts : Bool) (conv : Nat → Nat → Word → ElemOut) =>
      ∃ (out : Nat → LaneOut) (gen : Nat → Nat → Word),
        Becomes i s v { v.passed len with
          gen := Vector.ofFn fun k : Fin 32 => if (v.st.acting h).getLsbD k.val then (out k.val).gen else v.st.gen[k]
          flights := v.st.flights ++ [{
            seq := s.nextSeq, issuedAt := s.clock, landAt := s.clock + 6
            v := v.resultWrites f d.val (v.st.acting h) fun k => ((out k).code, (out k).tag)
            qsat := if counts then ((maskLanes (v.st.acting h)).map fun k => (out k).qsat).sum else 0
            qund := if counts then ((maskLanes (v.st.acting h)).map fun k => (out k).qund).sum else 0
            chk := if f.isFloat then v.sigCheck h f [d.val] (pairMask pairs) else none }] } ∧
        ∀ lane, gen lane 0 = v.st.genOf lane ∧ (out lane).gen = gen lane pairs.length ∧
          (out lane).qsat = ((List.range pairs.length).filter fun n => (conv lane ((pairs.getD n (0, 0)).1) (gen lane n)).sat).length ∧
          (out lane).qund = ((List.range pairs.length).filter fun n => (conv lane ((pairs.getD n (0, 0)).1) (gen lane n)).und).length ∧
          (∀ n (hn : n < pairs.length), gen lane (n + 1) = (conv lane (pairs[n]).1 (gen lane n)).gen ∧
            elemAt f (out lane).code (pairs[n]).2 = (conv lane (pairs[n]).1 (gen lane n)).code % 2 ^ f.width) ∧
          (∀ k, k < f.elems → (∀ p ∈ pairs, p.2 ≠ k) → elemAt f (out lane).code k = elemAt f (v.srcV f d.val lane).code k) ∧
          (f.isFloat = false → (out lane).tag = 0xFF)
    (Ready s v h { port := .vx, len := 8, f64 := f == .f64 || src == .f64, named := vNames f 0 d ++ vNames src 1 a, readsD := f.elems > 1 } →
      (Instr.cvt h f src mode m d a part).wf = true →
      converts (.cvt h f src mode m d a part) 8
        (if src.elems ≤ f.elems then (List.range src.elems).map fun j => (j, part.val * src.elems + j)
         else (List.range f.elems).map fun j => (part.val * f.elems + j, j))
        (f == .m8 || f == .fp4 || f == .e4m3)
        (fun lane k g => convElem src f mode m.sat (v.nan lane) (((v.srcV src a.val lane).opd src k).map (m.onElem src)) g)) ∧
    (Ready s v h { needV .vx .f32 [(0, d.val)] [(1, a.val)] b [] with readsD := true } → (Instr.qnt h f mode sat d a b part).wf = true →
      converts (.qnt h f mode sat d a b part) b.len [(0, part.val)] true
        (fun lane _ g => qntElem f mode sat ((v.srcV .f32 a.val lane).opd .f32 0) ((v.srcB .f32 b lane).opd .f32 0) g)) ∧
    (∀ (o : NanSrc) (x y : Opd) (g : Word),
      let rounds := fun (e : ElemOut) (z : Machine.Num) =>
        let r := roundTo f z mode sat ((nextGen g).toNat / 65536)
        e.code = r.code ∧ e.sat = r.ovf ∧ e.und = (z.isNonzero && (numOf f r.code).isZero) ∧
          e.gen = if mode = .rs ∧ r.inexact = true then nextGen g else g
      (x.x.isNan = false → src.isFloat = true ∨ f.isFloat = true → rounds (convElem src f mode sat o x g) x.x) ∧
      (src.isFloat = true ∨ f.isFloat = true → ∀ n k c, x.x = .nan n k c →
        (convElem src f mode sat o x g).code = nanTo k c n f o ∧ (convElem src f mode sat o x g).sat = (f == .fp4) ∧
          (convElem src f mode sat o x g).gen = g) ∧
      (src.isFloat = false → f.isFloat = false → ∀ n m, x.x = .fin n m 0 →
        (convElem src f mode sat o x g).code = intResult f sat (if n then -(m : Int) else m) ∧ (convElem src f mode sat o x g).gen = g) ∧
      ((x.x.div y.x).isNan = true ∨ x.x.div y.x = .bad → (qntElem f mode sat x y g).code = (if f = .m8 then 0x80 else 0) ∧
        (qntElem f mode sat x y g).sat = (f != .m8) ∧ (qntElem f mode sat x y g).gen = g) ∧
      ((x.x.div y.x).isNan = false → x.x.div y.x ≠ .bad → rounds (qntElem f mode sat x y g) (x.x.div y.x)))

/-! ### Memories II: loads, stores, atomics and cache instructions -/

/-- A lane's address (R275, R276): the base pair, or a 32-bit base in shared memory, plus the sign-extended index word and the
displacement scaled by the width, modulo 2^64 or 2^32. -/
def Obligations.LaneAddress : Prop :=
  ∀ (v : View) (base : MBase) (idx : BSrc) (disp : BitVec 8) (w : Width) (i : Nat),
    let index : DWord := (v.bword idx i).signExtend 64
    let off : DWord := disp.signExtend 64 * BitVec.ofNat 64 w.bytes
    v.memAddr true base idx (dispBytes disp w) i = ((match base with
        | .v n => v.pair n.val i
        | .s n => readSS v.g (2 * n.val)) + index + off).toNat ∧
    v.memAddr false base idx (dispBytes disp w) i = ((match base with
        | .v n => v.word n.val i
        | .s n => readS v.g n.val) + index.setWidth 32 + off.setWidth 32).toNat

/-- LD, LDT and LDS queue a load of each acting lane's address; LDT's loads a tag byte for each word too. ST, STT and STS
queue a store of each acting lane's data; STT stores a tag byte for each word too. A store is not sent as it issues (R274, R276,
R281, R282, R304). -/
def Obligations.LoadsAndStoresQueue : Prop :=
  (∀ (s : State) (v : View) (h : Hd) (w : Width) (sx cg : Bool) (d : VR) (base : MBase) (idx : BSrc) (disp : BitVec 8),
     let addr := fun i => v.memAddr true base idx (dispBytes disp w) i
     let load := fun i => ({ lane := i, addr := addr i, len := w.bytes, align := w.bytes, use := .load } : Access)
     (Ready s v h (needM true w (dataRegs 0 w d) base idx [] (some 0)) →
       ((Instr.ld h w sx cg d base idx disp).wf = true →
         Queues (.ld h w sx cg d base idx disp) s v h false idx.len (fun i => [load i])
           (.load w sx cg false (v.st.regIndex d.val)) true false 0) ∧
       ((Instr.ldt h w cg d base idx disp).wf = true →
         Queues (.ldt h w cg d base idx disp) s v h false idx.len
           (fun i => load i :: tagAccesses v.c .load i (addr i) (w.bytes / 4) fun _ => [])
           (.load w false cg true (v.st.regIndex d.val)) true false 0)) ∧
     (Ready s v h (needM false w (dataRegs 0 w d) base idx [] (some 2)) → (Instr.lds h w sx d base idx disp).wf = true →
       Queues (.lds h w sx d base idx disp) s v h true idx.len
         (fun i => [{ lane := i, addr := v.memAddr false base idx (dispBytes disp w) i, len := w.bytes, align := w.bytes, use := .load }])
         (.load w sx false false (v.st.regIndex d.val)) true false 2)) ∧
  (∀ (s : State) (v : View) (h : Hd) (w : Width) (d : VR) (base : MBase) (idx : BSrc) (disp : BitVec 8),
     let addr := fun i => v.memAddr true base idx (dispBytes disp w) i
     let bytes := fun i => ((List.range (max 1 (w.bytes / 4))).flatMap fun k => leBytes 4 (v.word (d.val + k) i).toNat).take w.bytes
     let store := fun i => ({ lane := i, addr := addr i, len := w.bytes, align := w.bytes, use := .store, data := bytes i } : Access)
     (Ready s v h { needM true w (dataRegs 0 w d) base idx [] (some 1) with noRegion := true, noRecompute := true, readsD := true } →
       ((Instr.st h w d base idx disp).wf = true →
         Queues (.st h w d base idx disp) s v h false idx.len (fun i => [store i]) .store false true 1) ∧
       ((Instr.stt h w d base idx disp).wf = true →
         Queues (.stt h w d base idx disp) s v h false idx.len
           (fun i => store i :: tagAccesses v.c .store i (addr i) (w.bytes / 4) fun k => [(readV v.g v.st (d.val + k) i).2])
           .store false true 1)) ∧
     (Ready s v h { needM false w (dataRegs 0 w d) base idx [] (some 2) with readsD := true } → (Instr.sts h w d base idx disp).wf = true →
       Queues (.sts h w d base idx disp) s v h true idx.len
         (fun i => [{ lane := i, addr := v.memAddr false base idx (dispBytes disp w) i, len := w.bytes, align := w.bytes, use := .store,
                      data := bytes i }])
         .store false true 2))

/-- ATOM, CAS, ATOMS, CASS and RED queue an atomic on each acting lane's naturally aligned word or pair: C is the operand or
the new value, D the value a CAS compares with (R283, R284, R286). -/
def Obligations.AtomicsQueue : Prop :=
  ∀ (s : State) (v : View) (h : Hd) (op : AOp) (f : Fmt) (ord : Order) (sc : Scope) (wide : Bool) (d : VR) (base : MBase) (idx : BSrc) (c : VR),
    let bytes := fun (n : VR) i => leBytes 4 (v.word n.val i).toNat ++ if wide then leBytes 4 (v.word (n.val + 1) i).toNat else []
    let size := if wide then 8 else 4
    let one := fun (global : Bool) i => ({ lane := i, addr := v.memAddr global base idx 0 i, len := 4, align := 4, use := .atomic,
                                           data := leBytes 4 (v.word c.val i).toNat } : Access)
    let two := fun (global : Bool) i => ({ lane := i, addr := v.memAddr global base idx 0 i, len := size, align := size, use := .atomic,
                                           data := bytes c i, cmp := bytes d i } : Access)
    (Ready s v h { needM true .b32 [(0, d.val)] base idx [(3, c.val)] (some 0) with noRegion := true, noRecompute := true } →
      (Instr.atom h op f ord sc d base idx c).wf = true →
      Queues (.atom h op f ord sc d base idx c) s v h false idx.len (fun i => [one true i])
        (.atom op f ord sc (some (v.st.regIndex d.val))) true true 0) ∧
    (Ready s v h { needM true .b32 (wideRegs 0 wide d) base idx (wideRegs 3 wide c) (some 0) with
        noRegion := true, noRecompute := true, readsD := true } → (Instr.cas h wide ord sc d base idx c).wf = true →
      Queues (.cas h wide ord sc d base idx c) s v h false idx.len (fun i => [two true i])
        (.cas ord sc (v.st.regIndex d.val) wide) true true 0) ∧
    (Ready s v h { needM false .b32 [(0, d.val)] base idx [(3, c.val)] (some 2) with noRegion := true } →
      (Instr.atoms h op f ord d base idx c).wf = true →
      Queues (.atoms h op f ord d base idx c) s v h true idx.len (fun i => [one false i])
        (.atom op f ord .core (some (v.st.regIndex d.val))) true true 2) ∧
    (Ready s v h { needM false .b32 (wideRegs 0 wide d) base idx (wideRegs 3 wide c) (some 2) with noRegion := true, readsD := true } →
      (Instr.cass h wide ord d base idx c).wf = true →
      Queues (.cass h wide ord d base idx c) s v h true idx.len (fun i => [two false i])
        (.cas ord .core (v.st.regIndex d.val) wide) true true 2) ∧
    (Ready s v h { needM true .b32 [] base idx [(3, c.val)] (some 1) with noRegion := true, noRecompute := true } →
      (Instr.red h op f ord sc base idx c).wf = true →
      Queues (.red h op f ord sc base idx c) s v h false idx.len (fun i => [one true i]) (.atom op f ord sc none) false true 1)

/-- PREF, PREFR and CMO (R287, R288, R289). PREF only advances its group; addresses that would fault change nothing else. Where
one lane acts, a line of plain memory is brought to its home slice, and for .l1 to the L1, with memory's bytes as they were where the
home holds it; of a DROPPED tile the rebuild starts. PREFR and CMO, which act once, are queued. -/
def Obligations.PrefetchAndMaintenance : Prop :=
  ∀ (s : State) (v : View) (h : Hd) (l2 : Bool) (base : MBase) (idx : BSrc) (a : Fin 256) (len : BSrc) (op : CmoOp) (level : CmoLevel),
    let addr := fun i => v.memAddr true base idx 0 i
    let size := (v.wordB len).toNat
    let at_ := (readSS v.g (2 * a.val)).toNat
    let p := View.put { v.charge (needM true .b32 [] base idx [] none) with st := v.passed idx.len }
    (Ready s v h (needM true .b32 [] base idx [] none) →
      (v.g.build = none → ∃ t, exec (.pref h l2 base idx) s = .next t ∧ t.groups = p.groups ∧ t.ctxs = p.ctxs ∧ t.outbox = s.outbox) ∧
      (∀ i pa die slice s1, maskLanes (v.st.acting h) = [i] → checkSys p v.c .load (addr i) 1 = .ok pa (.home die slice) →
        isPoisoned p pa = false → fillLine p (some v.c.id) (addr i) pa false false = some s1 →
        exec (.pref h l2 base idx) s = .next (if l2 ∨ (l1Line (getCore s1 v.g.core) pa).isSome = true then s1 else l1Fill s1 v.g.core pa)) ∧
      (∀ i pa die slice tile, maskLanes (v.st.acting h) = [i] → checkSys p v.c .load (addr i) 1 = .ok pa (.derived die slice) →
        tileUnready p v.c (addr i) = some tile → exec (.pref h l2 base idx) s = .next (startBuild p v.c tile v.g.build)) ∧
      ((∀ i ∈ maskLanes (v.st.acting h), ∃ r cause extra ad, checkSys s v.c .load (addr i) 1 = .fail r cause extra ad) →
        Becomes (.pref h l2 base idx) s v (v.passed idx.len)) ∧
      (∀ i pa die slice, maskLanes (v.st.acting h) = [i] → checkSys s v.c .load (addr i) 1 = .ok pa (.home die slice) →
        isPoisoned s pa = false → (l2Line s pa).isSome = true →
        ∃ t, exec (.pref h l2 base idx) s = .next t ∧ t.mem = s.mem ∧ t.l2 = s.l2 ∧
          (l2 = false → (l1Line (getCore t v.g.core) pa).isSome = true) ∧
          (viewOf t v.g.gid v.j v.iw0 v.iw1).any (fun w => decide (w.st = v.passed idx.len)) = true)) ∧
    (Ready s v h { needPair (2 * a.val) len with path := some 6 } →
      Once (.prefr h a len) s v h len.len
        ((∀ key, v.g.build = some key → rangeAllowed (sourceRanges s v.c key) at_ size = true) →
          Enqueues (.prefr h a len) s v len.len (.prefr at_ size (rangeTiles v.c at_ size)) true false
            [{ addr := at_, pa := 0, place := .host, len := 0 }] (some 6) [] false)) ∧
    (Ready s v h { needPair (2 * a.val) len with path := some 1, noRegion := true, noRecompute := true } →
      Once (.cmo h op level a len) s v h len.len
        (Enqueues (.cmo h op level a len) s v len.len (.cmo op level at_ size) false true [] (some 1) [] false))

/-! ### Tables I and II -/

/-- LDH and HTRANS look every acting lane's position up through a handle (R385, R388, R290): the row lies at FPBASE + f × 2^FRAMESZ +
(pos mod 16) × STRIDE for the frame f that map word pos / 16 names. HTRANS gives the row's address, LDH loads from it, where the reads of the tables pass
the checks of R251 and nothing earlier holds them back. A handle
of another tenant, beyond HTCOUNT, or stale raises the fault of R385 in LDH and HTRANS in every acting lane, and in KVAPP, KVFORK,
KVREL, KVSET and KVMOVE, which then change nothing (R385, R389). -/
def Obligations.HandleReads : Prop :=
  (∀ (s : State) (v : View) (h : Hd) (w : Width) (d : VR) (a : Fin 256) (pos : BSrc) (disp : BitVec 8) (e : HEntry) (frame : Nat → Nat),
     let handle := (readSS v.g (2 * a.val)).toNat
     let at_ := fun i => (v.srcB .b32 pos i).code
     let row := fun i => (kvFpbase s v.c + frame i * 2 ^ kvFramesz s v.c + at_ i % 16 * e.stride) % 2 ^ 64
     bits handle 63 56 = v.c.tenant → handleIndex handle < kvHtcount s v.c → e = readHEntry s v.c (handleIndex handle) →
     e.live = true → e.gen = bits handle 55 44 → entryFault s v.c handle = none → (v.st.acc.any fun e => e.stalls) = false →
     (∀ i ∈ maskLanes (v.st.acting h), at_ i / 16 < handleBound handle ∧ at_ i / 16 < e.capp ∧ at_ i < e.len ∧
       tableFault s v.c [(.load, e.wordAt (at_ i / 16))] = none ∧ mapWordAt s v.c e (at_ i / 16) = frame i ∧ frame i < 2 ^ 31 ∧ frame i < kvFtcount s v.c) →
     (Ready s v h (needHandle (dataRegs 0 w d) a pos (if w = .b128 then 2 else 1)) → (Instr.ldh h w d a pos disp).wf = true →
       v.st.acting h ≠ 0 → ∀ ps, v.Passes false ((maskLanes (v.st.acting h)).map fun i =>
           { lane := i, addr := add64 (row i) (dispBytes disp w), len := w.bytes, align := w.bytes, use := .load }) ps →
         Enqueues (.ldh h w d a pos disp) s v pos.len (.load w false false false (v.st.regIndex d.val)) true false ps (some 0)
           ((maskLanes (v.st.acting h)).map frame) true) ∧
     (Ready s v h (needHandle (vNames .f64 0 d) a pos 1) → (Instr.htrans h d a pos).wf = true → v.st.acting h ≠ 0 →
       Enqueues (.htrans h d a pos) s v pos.len
         (.lookup ((maskLanes (v.st.acting h)).flatMap fun i => [
           { tile := v.st.tileOf d.val, reg := d.val % 8, lane := i, word := BitVec.ofNat 32 (row i), tag := 0xFF },
           { tile := v.st.tileOf d.val, reg := (d.val + 1) % 8, lane := i, word := BitVec.ofNat 32 (row i / 2 ^ 32), tag := 0xFF }]))
         true false [] (some 0) [] true)) ∧
  (∀ (s : State) (v : View) (h : Hd) (w : Width) (d : VR) (sx m : SR) (a : Fin 256) (pos : BSrc) (disp : BitVec 8),
     let handle := (readSS v.g (2 * a.val)).toNat
     let reason : Nat := if bits handle 63 56 ≠ v.c.tenant then 1 else if kvHtcount s v.c ≤ handleIndex handle then 2 else 3
     let e := readHEntry s v.c (handleIndex handle)
     (bits handle 63 56 ≠ v.c.tenant ∨ kvHtcount s v.c ≤ handleIndex handle ∨ e.live = false ∨ e.gen ≠ bits handle 55 44) →
     entryFault s v.c handle = none →
     (∀ n, n = needHandle (vNames .f64 0 d) a pos 1 → Ready s v h n → v.st.acting h ≠ 0 → (v.st.acc.any fun e => e.stalls) = false →
       exec (.htrans h d a pos) s = .next ((v.charge n).settled.trapAt 0x0D pos.len (v.st.acting h) (BitVec.ofNat 32 reason) 0)) ∧
     (∀ n, n = needHandle (dataRegs 0 w d) a pos (if w = .b128 then 2 else 1) → Ready s v h n → v.st.acting h ≠ 0 →
       (v.st.acc.any fun e => e.stalls) = false →
       exec (.ldh h w d a pos disp) s = .next ((v.charge n).settled.trapAt 0x0D pos.len (v.st.acting h) (BitVec.ofNat 32 reason) 0)) ∧
     (∀ (i : Instr) (b : BSrc) (ss : List Nat), (i, b, ss) ∈ [
         (Instr.kvapp h sx a, BSrc.imm8 0, [sx.val, sx.val + 1]), (.kvmove h sx a, .imm8 0, [sx.val, sx.val + 1]), (.kvrel h a, .imm8 0, []),
         (.kvfork h sx a m, .s m, [sx.val, sx.val + 1]), (.kvsetMap h sx a pos, pos, [sx.val]),
         (.kvsetNew h sx a pos, pos, [sx.val, sx.val + 1]), (.kvsetAbsent h a pos, pos, [])] →
       ∀ n, n = { needPair (2 * a.val) b with
           sregs := [2 * a.val, 2 * a.val + 1] ++ b.ss .b32 ++ ss, path := some 1, noRegion := true, noRecompute := true, drained := true } →
         Ready s v h n → v.st.actsOnce h = true →
       exec i s = .next ((v.charge n).trapAt 0x0D b.len (v.st.acting h) (BitVec.ofNat 32 reason) 0)))

/-- KVAPP (R390), where R251 allows it what it touches in the tables: a new page takes a frame from the free list; a page already
begun takes its frame, and waits where that is absent, faults where it is shared or beyond FTCOUNT; FILL and LEN rise and Sx receives
the row's address; with no free frame Sx receives 0. That Sx lands in the clock after issue is the model's choice (log 121). -/
def Obligations.KvAppend : Prop :=
  ∀ (s : State) (v : View) (h : Hd) (sx : SR) (a : Fin 256) (e : HEntry) (n : Need),
    n = { needPair (2 * a.val) (.imm8 0) with
      sregs := [2 * a.val, 2 * a.val + 1, sx.val, sx.val + 1], path := some 1, noRegion := true, noRecompute := true, drained := true } →
    Ready s v h n →
    let u := v.charge n
    let handle := (readSS v.g (2 * a.val)).toNat
    let p := e.len / 16
    let append := fun (s' : State) (f : Nat) =>
      u.changed 8 (setLen (setFill s' v.c f (e.len % 16 + 1)) v.c e (e.len + 1)) (pairS sx.val (rowAddr s' v.c e f e.len))
    (v.st.actsOnce h = false → Becomes (.kvapp h sx a) s v (v.passed 8)) ∧
    (v.st.actsOnce h = true → entryFault s v.c handle = none → checkHandle s v.c handle = .ok e →
      tableFault u.s v.c (kvappTouch u handle e) = none →
      (handleBound handle ≤ p ∨ e.capp ≤ p → exec (.kvapp h sx a) s = .next (u.trapAt 0x0E 8 (v.st.acting h) 1 0)) ∧
      (p < handleBound handle → p < e.capp →
        (e.len % 16 = 0 → popFrame u.s v.c 0 = none → exec (.kvapp h sx a) s = .next (u.changed 8 u.s (pairS sx.val 0))) ∧
        (e.len % 16 = 0 → ∀ f s1, popFrame u.s v.c 0 = some (f, s1) →
          exec (.kvapp h sx a) s = .next (append (setMapWord s1 v.c e p f) f)) ∧
        (e.len % 16 ≠ 0 → 2 ^ 31 ≤ mapWordAt u.s v.c e p →
          Becomes (.kvapp h sx a) s v (v.blocked (.mapWord handle p) 8)) ∧
        (e.len % 16 ≠ 0 → mapWordAt u.s v.c e p < 2 ^ 31 → kvFtcount u.s v.c ≤ mapWordAt u.s v.c e p →
          exec (.kvapp h sx a) s = .next (u.trapAt 0x0D 8 (v.st.acting h) 4 0)) ∧
        (e.len % 16 ≠ 0 → ∀ f, mapWordAt u.s v.c e p = f → f < kvFtcount u.s v.c → f < 2 ^ 31 →
          (frameRef (readFrame u.s v.c f) ≤ 1 → exec (.kvapp h sx a) s = .next (append u.s f)) ∧
          (1 < frameRef (readFrame u.s v.c f) →
            exec (.kvapp h sx a) s = .next (u.trapAt 0x0F 8 (v.st.acting h) (BitVec.ofNat 32 (p % 2 ^ 24)) 0)))))

/-- KVFORK, KVREL, KVSET and KVMOVE on a good handle, where R251 allows them what they touch in the tables (R391 to R394): reference
counts follow the map words, and a frame whose REF falls to 0 is freed: it goes to the free list, or is held back while a lookup that
read it has not returned. A map word, a frame or a count that these instructions may not use raises its fault, which changes
nothing. That Sx lands in the clock after issue, and that KVSET.new writes FILL 0 where the entry had no valid frame, are the model's
own (logs 121, 49). -/
def Obligations.KvMaps : Prop :=
  ∀ (s : State) (v : View) (h : Hd) (sx m : SR) (a : Fin 256) (b : BSrc) (e : HEntry),
    let need := fun (b : BSrc) (ss : List Nat) => ({ needPair (2 * a.val) b with
      sregs := [2 * a.val, 2 * a.val + 1] ++ b.ss .b32 ++ ss, path := some 1, noRegion := true, noRecompute := true, drained := true } : Need)
    let ready := fun (b : BSrc) (ss : List Nat) (touch : View → List (Use × Nat)) => Ready s v h (need b ss) ∧ v.st.actsOnce h = true ∧
      entryFault s v.c (readSS v.g (2 * a.val)).toNat = none ∧
      tableFault (v.charge (need b ss)).s v.c (touch (v.charge (need b ss))) = none ∧ checkHandle s v.c (readSS v.g (2 * a.val)).toNat = .ok e
    let p := (v.wordB b).toNat
    let full := fun (f : Nat) => decide (f < kvFtcount s v.c) && !frameFree (readFrame s v.c f)
    (ready (.imm8 0) [] (fun u => (.atomic, e.at_) :: (e.wordUses .load ++ wordUses u.s v.c (pageWords u.s v.c e))) →
      let u := v.charge (need (.imm8 0) [])
      let s1 := setLen (sysWrite u.s v.c (e.at_ + 8) (leBytes 8 (e.w1 % 2 ^ 24 + (e.gen + 1) % 4096 * 2 ^ 24 + e.w1 / 2 ^ 37 * 2 ^ 37))) v.c e 0
      exec (.kvrel h a) s = .next (u.changed 8 ((pageWords u.s v.c e).foldl (fun s w => releaseWord s v.c w) s1) [])) ∧
    (ready (.s m) [sx.val, sx.val + 1] (fun u => kvforkTouch u ((readS v.g m.val).toNat % 2 ^ 24) e) →
      let u := v.charge (need (.s m) [sx.val, sx.val + 1])
      let dst := (readS v.g m.val).toNat % 2 ^ 24
      let t := readHEntry u.s v.c dst
      let words := pageWords u.s v.c e
      dst < kvHtcount u.s v.c → t.live = false → e.pages ≤ t.capp → (∀ w ∈ words, absentWord w = true ∨ (w < kvFtcount u.s v.c ∧
        frameRef (readFrame u.s v.c w) + words.count w ≤ 65535)) →
      exec (.kvfork h sx a m) s = .next (u.changed 8
        (sysWrite (setLen (words.zipIdx.foldl (fun s w => setMapWord s v.c t w.2 w.1)
          (words.foldl (fun s w => match wordFrame s v.c w with
            | some f => setRef s v.c f (frameRef (readFrame s v.c f) + 1)
            | none => s) u.s)) v.c t e.len) v.c (t.at_ + 8) (leBytes 8 (t.w1 + 2 ^ 36)))
        (pairS sx.val (v.c.tenant * 2 ^ 56 + t.gen * 2 ^ 44 + dst * 2 ^ 20 + t.capp % 2 ^ 20)))) ∧
    (ready b [sx.val] (fun u => kvsetTouch u p e [(readS v.g sx.val).toNat]) → p < e.capp → full (readS v.g sx.val).toNat = true → frameRef (readFrame s v.c (readS v.g sx.val).toNat) ≠ 65535 →
      let u := v.charge (need b [sx.val])
      let f := (readS v.g sx.val).toNat
      exec (.kvsetMap h sx a b) s = .next (u.changed b.len
        (releaseWord (setMapWord (setRef u.s v.c f (frameRef (readFrame u.s v.c f) + 1)) v.c e p f) v.c (mapWordAt u.s v.c e p)) [])) ∧
    (ready b [sx.val, sx.val + 1] (fun u => kvsetTouch u p e [kvFreehead u.s v.c]) → p < e.capp →
      let u := v.charge (need b [sx.val, sx.val + 1])
      let old := mapWordAt u.s v.c e p
      let fill := match wordFrame u.s v.c old with
        | some f => frameFill (readFrame u.s v.c f)
        | none => 0
      (popFrame u.s v.c fill = none → exec (.kvsetNew h sx a b) s = .next (u.changed b.len u.s (pairS sx.val (2 ^ 64 - 1)))) ∧
      ∀ f s1, popFrame u.s v.c fill = some (f, s1) →
        exec (.kvsetNew h sx a b) s = .next (u.changed b.len (releaseWord (setMapWord s1 v.c e p f) v.c old) (pairS sx.val (f + old * 2 ^ 32)))) ∧
    (ready b [] (fun u => kvsetTouch u p e []) → p < e.capp →
      let u := v.charge (need b [])
      exec (.kvsetAbsent h a b) s = .next (u.changed b.len
        (releaseWord (setMapWord u.s v.c e p (2 ^ 31)) v.c (mapWordAt u.s v.c e p)) [])) ∧
    (ready (.imm8 0) [sx.val, sx.val + 1] (fun u =>
        frameUses u.s v.c [(readS v.g sx.val).toNat, (readS v.g (sx.val + 1)).toNat] ++ e.wordUses .atomic) →
      let u := v.charge (need (.imm8 0) [sx.val, sx.val + 1])
      let fa := (readS v.g sx.val).toNat
      let fb := (readS v.g (sx.val + 1)).toNat
      let words := pageWords u.s v.c e
      full fa = true → full fb = true → fa ≠ fb → frameRef (readFrame u.s v.c fb) + words.count fa ≤ 65535 →
      exec (.kvmove h sx a) s = .next (u.changed 8
        (lowerRef (setRef (setFill (words.zipIdx.foldl (fun s w => if w.1 = fa then setMapWord s v.c e w.2 fb else s) u.s) v.c fb
          (max (frameFill (readFrame u.s v.c fa)) (frameFill (readFrame u.s v.c fb)))) v.c fb
          (frameRef (readFrame u.s v.c fb) + words.count fa)) v.c fa (words.count fa)) [])) ∧
    (∀ (s : State) (c : Ctx) (f n : Nat), n ≠ 0 →
      (n < frameRef (readFrame s c f) → lowerRef s c f n = setRef s c f (frameRef (readFrame s c f) - n)) ∧
      (frameRef (readFrame s c f) ≤ n → ∀ t, t = writeFrame s c f 0 0 true (frameNext (readFrame s c f)) → lowerRef s c f n =
        if frameInUse t c.tenant f then
          putTenant t c.tenant { getTenant t c.tenant with heldFrames := (getTenant t c.tenant).heldFrames ++ [f] }
        else let w := readFrame t c f; setFreehead (writeFrame t c f (frameRef w) (frameFill w) true (kvFreehead t c)) c f)) ∧
    (let faults := fun (i : Instr) (b : BSrc) (ss : List Nat) (cause : Nat) (extra : Word) =>
       exec i s = .next ((v.charge (need b ss)).trapAt cause b.len (v.st.acting h) extra 0)
     let used := (v.charge (need b [sx.val])).s
     (ready b [sx.val] (fun u => kvsetTouch u p e [(readS v.g sx.val).toNat]) →
       (e.capp ≤ p → faults (.kvsetMap h sx a b) b [sx.val] 0x0E 1) ∧
       (p < e.capp → full (readS v.g sx.val).toNat = false → faults (.kvsetMap h sx a b) b [sx.val] 0x0D 4) ∧
       (p < e.capp → full (readS v.g sx.val).toNat = true → frameRef (readFrame used v.c (readS v.g sx.val).toNat) = 65535 →
         faults (.kvsetMap h sx a b) b [sx.val] 0x0E 3)) ∧
     (ready b [sx.val, sx.val + 1] (fun u => kvsetTouch u p e [kvFreehead u.s v.c]) → e.capp ≤ p →
       faults (.kvsetNew h sx a b) b [sx.val, sx.val + 1] 0x0E 1) ∧
     (ready b [] (fun u => kvsetTouch u p e []) → e.capp ≤ p → faults (.kvsetAbsent h a b) b [] 0x0E 1) ∧
     (ready (.s m) [sx.val, sx.val + 1] (fun u => kvforkTouch u ((readS v.g m.val).toNat % 2 ^ 24) e) →
       let dst := (readS v.g m.val).toNat % 2 ^ 24
       let t := readHEntry (v.charge (need (.s m) [sx.val, sx.val + 1])).s v.c dst
       (kvHtcount s v.c ≤ dst → faults (.kvfork h sx a m) (.s m) [sx.val, sx.val + 1] 0x0D 2) ∧
       (dst < kvHtcount s v.c → t.live = true → faults (.kvfork h sx a m) (.s m) [sx.val, sx.val + 1] 0x0D 5) ∧
       (dst < kvHtcount s v.c → t.live = false → t.capp < e.pages → faults (.kvfork h sx a m) (.s m) [sx.val, sx.val + 1] 0x0E 1)) ∧
     (ready (.imm8 0) [sx.val, sx.val + 1] (fun u =>
         frameUses u.s v.c [(readS v.g sx.val).toNat, (readS v.g (sx.val + 1)).toNat] ++ e.wordUses .atomic) →
       full (readS v.g sx.val).toNat = false ∨ full (readS v.g (sx.val + 1)).toNat = false ∨ readS v.g sx.val = readS v.g (sx.val + 1) →
       faults (.kvmove h sx a) (.imm8 0) [sx.val, sx.val + 1] 0x0D 4))

/-- BELAY counts each 4 KiB unit of a range up or down, within its limits, and fails whole otherwise (R378, R379, R380). An
add waits for its effect. -/
def Obligations.BelayCounts : Prop :=
  ∀ (s : State) (v : View) (h : Hd) (pd : PR) (a : Fin 256) (b : BSrc), Ready s v h { needTable a b with preds := [pd] } →
    let u := v.charge { needTable a b with preds := [pd] }
    let base := (readSS v.g (2 * a.val)).toNat
    let len := (v.wordB b).toNat
    let units := unitsOf base len
    let fresh := units.filter fun g => belayCount v.c g == 0
    (v.st.actsOnce h = false → Becomes (.belayAdd h pd a b) s v (v.passed b.len) ∧ Becomes (.belayDrop h pd a b) s v (v.passed b.len)) ∧
    (v.st.actsOnce h = true → (∀ g ∈ units, ∃ pa pl, checkSys u.s v.c .belay g 1 = .ok pa pl) →
      (2 ^ 20 < len ∨ (∃ g ∈ units, belayCount v.c g = 65535) ∨ v.c.belaycap < v.c.belay.length + fresh.length →
        exec (.belayAdd h pd a b) s = .next (u.answered b.len u.s v.c pd true)) ∧
      (2 ^ 20 < len ∨ fresh ≠ [] → exec (.belayDrop h pd a b) s = .next (u.answered b.len u.s v.c pd true)) ∧
      (len ≤ 2 ^ 20 → fresh = [] →
        let c := units.foldl (fun c g => setBelay c g (belayCount c g - 1)) v.c
        exec (.belayDrop h pd a b) s = .next (u.answered b.len (units.foldl (fun s g => settleBly s c g) u.s) c pd false)) ∧
      (len ≤ 2 ^ 20 → (∀ g ∈ units, belayCount v.c g ≠ 65535) → v.c.belay.length + fresh.length ≤ v.c.belaycap →
        let c := units.foldl (fun c g => setBelay c g (belayCount c g + 1)) v.c
        ∃ t w, exec (.belayAdd h pd a b) s = .next t ∧ viewOf t v.g.gid v.j v.iw0 v.iw1 = some w ∧
          w.st.wait = some { kind := .belay pd s.nextSeq base len, since := s.clock, len := b.len } ∧ w.st.pc = v.st.pc ∧
          (v.c.id = c.id → w.c = c) ∧ w.g.pathCount 1 = v.g.pathCount 1 + 1))

/-- RETIRE.rcp makes the tiles of its range RETIRED in order, and waits at one that is BUILDING; its counter is up until all have
changed. RETIRE.bly sets the counts of its range to 0. Each answers in Pd whether it failed. RCPQ queues a read of each lane's record
(R316, R409, R410). That RETIRE.rcp also waits at a PRESENT tile which an instruction or slot still waits for is the model's reading of
R316 (log 117); that RCPQ takes 64 free values, for the records it cannot read, is the model's choice (log 119). -/
def Obligations.RetireAndQuery : Prop :=
  ∀ (s : State) (v : View) (h : Hd) (pd : PR) (a : Fin 256) (b : BSrc) (d va : VR),
    (Ready s v h { needTable a b with preds := [pd] } →
      let u := v.charge { needTable a b with preds := [pd] }
      let s0 := { u.s with nextSeq := s.nextSeq + 1 }
      let after := fun (l : List Nat) => l.foldl (fun s x => retireTile s v.c x) s0
      let held := fun (t : State) (x : Nat) =>
        tileState t v.c x = rsBuilding ∨ (tileState t v.c x = rsPresent ∧ tileAwaited t v.c.id x = true)
      let len := (v.wordB b).toNat
      let units := unitsOf (readSS v.g (2 * a.val)).toNat len
      (v.st.actsOnce h = false → Becomes (.retireRcp h pd a b) s v (v.passed b.len) ∧ Becomes (.retireBly h pd a b) s v (v.passed b.len)) ∧
      (v.st.actsOnce h = true →
        (2 ^ 30 < len ∨ oneRegion v.c units = false → exec (.retireRcp h pd a b) s = .next (u.answered b.len u.s v.c pd true)) ∧
        (len ≤ 2 ^ 30 → oneRegion v.c units = true →
          ((∀ l x r, units = l ++ x :: r → ¬ held (after l) x) → exec (.retireRcp h pd a b) s = .next (View.put { u with
            s := after units, g := (v.g.pathRaise 1 s.nextSeq).pathLower 1 s.nextSeq, st := (v.passed b.len).setPredEm pd false })) ∧
          (∀ l x r, units = l ++ x :: r → held (after l) x → (∀ l' y r', l = l' ++ y :: r' → ¬ held (after l') y) →
            exec (.retireRcp h pd a b) s = .next (View.put { u with
              s := after l, g := v.g.pathRaise 1 s.nextSeq
              st := { u.st with wait := some { kind := .retire pd s.nextSeq (x :: r), since := s.clock, len := b.len } } }))) ∧
        (2 ^ 30 < len ∨ (∃ x ∈ units, (regionAt v.c x).isSome = true) →
          exec (.retireBly h pd a b) s = .next (u.answered b.len u.s v.c pd true)) ∧
        (len ≤ 2 ^ 30 → (∀ x ∈ units, regionAt v.c x = none) →
          let c := units.foldl (fun c g => setBelay c g 0) v.c
          exec (.retireBly h pd a b) s = .next (u.answered b.len
            ((units.filter fun g => belayCount v.c g != 0).foldl (fun s g => settleBly s c g) u.s) c pd false)))) ∧
    (∀ (step : Bool) (n : Need), n = { port := .mem, len := 8, path := some 0, noRecompute := true, unchecked := [1], perLane := true,
                                       named := (if step then vNames .f64 0 d else [(0, d.val)]) ++ vNames .f64 1 va } →
      Ready s v h n →
      let i := if step then Instr.rcpqStep h d va else Instr.rcpqState h d va
      let u := (v.charge n).settled
      (v.st.acting h = 0 → Becomes i s v (v.passed 8)) ∧
      (v.st.acting h ≠ 0 → v.recordAway h va = none → (v.st.acc.any fun e => e.stalls) = false →
        exec i s = .next (((View.enqueue { u with s := { u.s with free := s.free + 64 } } (.rcpq step (v.st.regIndex d.val)) true false
          ((maskLanes (v.st.acting h)).map fun k => v.rcpqLane step va k) (some 0)).advance 8).put)))

/-- SCHED replaces the schedule once its list is read and well-formed, and waits until the L2 has it; TICK raises STEP by 1
(R411, R413, R414, R415). The add of a BELAY takes effect once every earlier write to its granules has been performed: Pd becomes
false, path 1's counter falls, and the strand goes on; SCHED's effect is that the L2 has the new schedule, and Pd false; STEP
reaches the L2 after it has been raised (R379, R413, R414). The writes that an add waits for are the queued stores and atomics, and not
the copies: the model's reading of R379 (log 37). -/
def Obligations.ScheduleAndTick : Prop :=
  (∀ (s : State) (v : View) (h : Hd) (pd : PR) (a : Fin 256) (b : BSrc),
     (Ready s v h { needTable a b with path := none, preds := [pd] } →
       let u := v.charge { needTable a b with path := none, preds := [pd] }
       let at_ := (readSS v.g (2 * a.val)).toNat
       let count := (v.wordB b).toNat
       (v.st.actsOnce h = false → Becomes (.sched h pd a b) s v (v.passed b.len)) ∧
       (v.st.actsOnce h = true →
         (at_ % 32 ≠ 0 → exec (.sched h pd a b) s = .next (u.trapAt 0x06 b.len (v.st.acting h) 0 at_)) ∧
         (at_ % 32 = 0 → 64 < count → exec (.sched h pd a b) s = .next (u.answered b.len u.s v.c pd true)) ∧
         (at_ % 32 = 0 → count ≤ 64 → ∀ bytes : Nat → List Byte,
           (∀ k, k < count → readSys u.s v.c .load (add64 at_ (32 * k)) 32 = .bytes (bytes k)) →
           let m := writeBytes [] 0 ((List.range count).flatMap bytes)
           let entry := fun k => schedEntry (readNat m (32 * k) 8) (readNat m (32 * k + 8) 8) (readNat m (32 * k + 16) 8) (readNat m (32 * k + 24) 8)
           ((∃ k, k < count ∧ entry k = none) → exec (.sched h pd a b) s = .next (u.answered b.len u.s v.c pd true)) ∧
           (∀ es : List SchedEntry, (List.range count).map entry = es.map some → schedDisjoint es = true →
             exec (.sched h pd a b) s = .next (View.put { u with
               c := { v.c with sched := es },
               st := { u.st with wait := some { kind := .sched pd, since := s.clock, len := b.len }, walked := [], chainFault := none } }))))) ∧
     (Ready s v h { port := .ctl, len := 8, noRegion := true, noRecompute := true, drained := true } →
       let u := v.charge { port := .ctl, len := 8, noRegion := true, noRecompute := true, drained := true }
       (v.st.actsOnce h = false → Becomes (.tick h) s v (v.passed 8)) ∧
       (v.st.actsOnce h = true → exec (.tick h) s = .next (View.put { u with
         c := { v.c with step := v.c.step + 1, stepAt := if v.c.step = v.c.stepL2 then s.clock else v.c.stepAt }, st := v.passed 8 })))) ∧
  ((∀ (s : State) (gid j : Nat) (v : View) (pd : PR) (since n : Nat), viewOf s gid j 0 0 = some v →
     let on := fun (c : Ctx) (g : Group) => View.put { v with
       c, g, st := { v.st.setPredEm pd false with wait := none, pc := v.st.pc + BitVec.ofNat 64 n } }
     (∀ seq base len, v.st.wait = some { kind := .belay pd seq base len, since, len := n } →
       (len ≠ 0 → writesPending s v.c.id base len = true → exec (.belayTakeEffect gid j) s = .next s) ∧
       (len = 0 ∨ writesPending s v.c.id base len = false →
         exec (.belayTakeEffect gid j) s = .next (on v.c (v.g.pathLower 1 seq)))) ∧
     (v.st.wait = some { kind := .sched pd, since, len := n } →
       exec (.schedTakeEffect gid j) s = .next (on { v.c with schedL2 := v.c.sched } v.g))) ∧
   (∀ (s : State) (c : Ctx) (id : Nat), getCtx s id = some c →
     exec (.stepPropagate id) s = .next (putCtx s { c with stepL2 := c.step })))

/-! ### Consistency, counters and barriers -/

/-- NOP only advances. MARK and FENCE join the strand's list of accesses and do not wait; nothing after one is sent while it
stands; it goes when every access before it has been performed, a FENCE with the acquire of its scope (R306, R310, R427). A queue of a
group that holds a core sends its oldest entry that has not been sent: a store once no older load of the agent to the same bytes is
still to be performed, an atomic once nothing older of either queue is still to be sent, neither behind a MARK, a FENCE or an acquire,
and a release only when everything before it has been performed; a queue whose oldest entry may not be sent, or with none, does
nothing (R304, R305, R306, R308, R309, R318). -/
def Obligations.OrderingMarks : Prop :=
  (∀ (s : State) (v : View) (h : Hd) (sc : Scope), Ready s v h { port := .ctl, len := 8 } →
    Becomes (.nop h) s v (v.passed 8) ∧
    Once (.mark h) s v h 8 (Enqueues (.mark h) s v 8 .mark true true [] none [] false) ∧
    Once (.fence h sc) s v h 8 (Enqueues (.fence h sc) s v 8 (.fence sc) true true [] none [] false)) ∧
  (∀ (before : List Entry) (o e : Entry), o ∈ before → (o.kind = .mark ∨ ∃ sc, o.kind = .fence sc) → e.sendable before = false) ∧
  (∀ (s : State) (g : Group) (ag : Agent) (store : Bool), getGroup s ag.gid = some g →
    (g.state = .saved → exec (.memoryQueueSend ag store) s = .next s) ∧
    (g.state ≠ .saved → ∀ (e : Entry) (rest : List Entry), accOf g ag = e :: rest →
      (e.kind = .mark ∨ e.kind = .fence .core → exec (.memoryQueueSend ag store) s = .next (setAcc s ag rest)) ∧
      (∀ sc, e.kind = .fence sc → sc ≠ .core → exec (.memoryQueueSend ag store) s = .next (l1Clear (setAcc s ag rest) g.core))) ∧
    (let mine := fun (x : Entry) => if store then x.isSt else x.isLd
     let moves := fun (x : Entry) => x.blocks = false ∧ ∀ pos c, x.kind ≠ .arrive pos c
     let shares := fun (x y : Entry) => (x.isLd = true ∧ y.isLd = true) ∨ (x.isSt = true ∧ y.isSt = true)
     let overtakes := fun (x y : Entry) => x.isSt = true ∧ y.isLd = true ∧
       ∃ q ∈ y.parts, q.done = false ∧ ∃ p ∈ x.parts, p.meets q = true
     (g.state ≠ .saved → (∀ x ∈ accOf g ag, moves x ∧ (mine x = true → x.sent = true)) → exec (.memoryQueueSend ag store) s = .next s) ∧
     (g.state ≠ .saved → ∀ (before after : List Entry) (e : Entry), accOf g ag = before ++ e :: after →
       e.sent = false → mine e = true → (∀ x ∈ before, mine x = true → x.sent = true) →
       (∀ x ∈ before ++ after, x.seq ≠ e.seq) → (∀ x ∈ before ++ [e], moves x) →
       let free := (∀ x ∈ before, x.acquires = false ∧ ¬ overtakes e x ∧ (shares x e → x.sent = true)) ∧ (e.releases = true → before = [])
       (free → exec (.memoryQueueSend ag store) s = .next (setAcc s ag (before ++ { e with sent := true } :: after))) ∧
       (¬ free → exec (.memoryQueueSend ag store) s = .next s))))

/-- BAR arrives once and waits for its phase, BAR.arrive goes on; the first arrival of a phase sets EXP; n above 32 is illegal
when the BAR acts; a strand that had arrived before a stop does not arrive again (R425, R426, R446). A phase completes once ARR
reaches EXP, or the strands that have not ended where EXP is 0: PHASE is inverted, ARR is 0, the strands that wait in it go on, and a
BAR that a strand left while it waited remembers the phase; before that nothing happens (R425, R446). That an arrival of the next
phase comes in a later clock is the model's choice (log 110). -/
def Obligations.Barriers : Prop :=
  (∀ (s : State) (v : View) (h : Hd) (b : Fin 16) (n : BSrc), Ready s v h (needBar n) →
     let k := (v.wordB n).toNat % 64
     let x := v.g.barriers[b.val]
     let g := { v.g with barriers := v.g.barriers.set b.val { x with arr := x.arr + 1, exp := if x.arr = 0 then k else x.exp } }
     let wait := v.yields (.bar b.val) n.len
     let mine := fun (x : Nat × Bool × DWord) => x.1 == b.val && x.2.2 == v.st.pc
     (v.st.actsOnce h = false → Becomes (.barSync h b n) s v (v.passed n.len) ∧ Becomes (.barArrive h b n) s v (v.passed n.len)) ∧
     (v.st.actsOnce h = true → x.doneAt = some s.clock →
       exec (.barSync h b n) s = .next v.put ∧ exec (.barArrive h b n) s = .next v.put) ∧
     (v.st.actsOnce h = true → x.doneAt ≠ some s.clock → 32 < k →
       exec (.barSync h b n) s = .next ((v.charge (needBar n)).illegal h n.len) ∧
       exec (.barArrive h b n) s = .next ((v.charge (needBar n)).illegal h n.len)) ∧
     (v.st.actsOnce h = true → x.doneAt ≠ some s.clock → k ≤ 32 →
       Leaves (.barArrive h b n) s v g (v.passed n.len) ∧
       (v.st.barArrived.find? mine = none →
         Leaves (.barSync h b n) s v g { wait with barArrived := (b.val, false, v.st.pc) :: v.st.barArrived }) ∧
       (v.st.barArrived.find? mine = some (b.val, false, v.st.pc) → Becomes (.barSync h b n) s v wait) ∧
       (v.st.barArrived.find? mine = some (b.val, true, v.st.pc) →
         Becomes (.barSync h b n) s v { v.passed n.len with barArrived := v.st.barArrived.filter fun x => !mine x }))) ∧
  (∀ (s : State) (g : Group) (b : Fin 16), getGroup s g.gid = some g → g.state = .resident →
     let x := g.barriers[b.val]
     let need := if x.exp = 0 then (g.strands.filter fun st => !st.pdone).length else x.exp
     (x.arr = 0 ∨ x.arr < need → exec (.barPhaseComplete g.gid b.val) s = .next s) ∧
     (x.arr ≠ 0 → need ≤ x.arr → ∃ t g', exec (.barPhaseComplete g.gid b.val) s = .next t ∧ getGroup t g.gid = some g' ∧
       g' = { g with barriers := g.barriers.set b.val { x with arr := 0, phase := !x.phase, doneAt := some s.clock }, strands := g'.strands } ∧
       g'.strands.length = g.strands.length ∧ (∀ k, k ≠ g.gid → getGroup t k = getGroup s k) ∧ t.mem = s.mem ∧ t.cores = s.cores ∧
       ∀ (j : Nat) (st : Strand), g.strands[j]? = some st →
         let mark := fun (x : Nat × Bool × DWord) => if x.1 = b.val then (x.1, true, x.2.2) else x
         (∀ len since, st.wait = some { kind := .bar b.val, since, len } →
           g'.strands[j]? = some { st with
             barArrived := (st.barArrived.filter fun x => !(x.1 == b.val && x.2.2 == st.pc)).map mark
             wait := none, pc := st.pc + BitVec.ofNat 64 len }) ∧
         ((∀ len since, st.wait ≠ some { kind := .bar b.val, since, len }) →
           g'.strands[j]? = some { st with barArrived := st.barArrived.map mark })))

/-- CLARM arms a cleat that no other group owns, with n at most 4,095 and not 0; CLARM.free frees the group's own; Pd says
whether it failed, and a failure changes no cleat. CLARV sends an arrival of n to the cleat of a member of the gang, which keeps it
until the clock's arrivals are applied; CLWAIT completes where the phase has flipped, with the acquire of its scope, of device scope
where a collective arrived, and of the lines that the arriving copies wrote, or with Pd
true where the group does not own the cleat, and else waits. What reached an armed cleat from its owner's gang in one clock is
applied together: COUNT rises, and where it reaches EXPECT the phase flips, once in a clock, and the rest carries over; where nothing
has reached it a remainder of EXPECT or more flips it again in a later clock. What reaches a cleat that is not armed is lost, and raises
LOSTARR of its group (R314, R315, R420 to R423). That a CLARM precedes the arrivals of its clock, that COUNT keeps its low 12 bits, that
a remainder flips the phase again in a later clock, and that the mark of a collective and the lines of copies stay until the next CLARM,
are the model's choices (logs 110, 111, 43 and 129). -/
def Obligations.Cleats : Prop :=
  (∀ (s : State) (v : View) (h : Hd) (pd : PR) (c : Fin 32) (b : BSrc),
     let k := (getCore s v.g.core).cleat c.val
     let after := fun (u : View) (len : Nat) (x : Cleat) (fail : Bool) => View.put { u with
       s := putCore u.s v.g.core ((getCore u.s v.g.core).putCleat c.val x), st := v.judged len pd fail }
     (∀ need, need = { needCleat b with noRegion := true, preds := [pd] } → Ready s v h need → k.settledAt ≠ some s.clock →
       let u := v.charge need
       let n := (v.wordB b).toNat % 4096
       let taken := ∃ o, k.owner = some o ∧ o ≠ v.g.gid
       (v.st.actsOnce h = false → Becomes (.clarm h pd c b) s v (v.passed b.len)) ∧
       (v.st.actsOnce h = true → taken ∨ n = 0 → exec (.clarm h pd c b) s = .next (after u b.len k true)) ∧
       (v.st.actsOnce h = true → ¬ taken → n ≠ 0 → exec (.clarm h pd c b) s = .next (after u b.len
         { k with owner := some v.g.gid, armed := true, expect := n, count := 0, phase := false, coll := false, lines := [] } false))) ∧
     (∀ need, need = { needCleat (.imm8 0) with noRegion := true, preds := [pd] } → Ready s v h need → k.settledAt ≠ some s.clock →
       let u := v.charge need
       (v.st.actsOnce h = false → Becomes (.clarmFree h pd c) s v (v.passed 8)) ∧
       (v.st.actsOnce h = true → k.owner ≠ some v.g.gid → exec (.clarmFree h pd c) s = .next (after u 8 k true)) ∧
       (v.st.actsOnce h = true → k.owner = some v.g.gid →
         exec (.clarmFree h pd c) s = .next (after u 8 { k with owner := none, armed := false } false)))) ∧
  (∀ (s : State) (v : View) (h : Hd) (gang : Bool) (pd : PR) (c : Fin 32) (pos : Fin 16) (b : BSrc),
     let k := (getCore s v.g.core).cleat c.val
     let need := { needCleat b with noRegion := true, drained := true }
     (Ready s v h need →
       (v.g.gangsize ≤ pos.val ∨ (gang = false ∧ pos.val ≠ v.g.gangpos) →
         exec (.clarv h gang c pos b) s = .next ((v.charge need).illegal h b.len)) ∧
       (pos.val < v.g.gangsize → gang = true ∨ pos.val = v.g.gangpos →
         (v.st.actsOnce h = false ∨ (v.wordB b).toNat % 4096 = 0 → Becomes (.clarv h gang c pos b) s v (v.passed b.len)) ∧
         (v.st.actsOnce h = true → ∀ n, n = (v.wordB b).toNat % 4096 → n ≠ 0 → ∀ target : Group,
           let t := (View.put { v.charge need with st := v.passed b.len })
           gangMember t v.g pos.val = some target → target.state ≠ .saved →
           ∃ u, exec (.clarv h gang c pos b) s = .next u ∧ u.groups = t.groups ∧
             (getCore u target.core).cleat c.val = { (getCore t target.core).cleat c.val with
               arrivals := ((getCore t target.core).cleat c.val).arrivals ++
                 [{ n, gid := v.g.gid, grid := v.g.grid, gangix := v.g.gangix }] } ∧
             ∀ d, d ≠ c.val → (getCore u target.core).cleat d = (getCore t target.core).cleat d))) ∧
     (∀ need, need = { needCleat b with preds := [pd] } → Ready s v h need →
       let u := v.charge need
       let parity := (v.wordB b).getLsbD 0
       (v.st.actsOnce h = false → Becomes (.clwait h gang pd c b) s v (v.passed b.len)) ∧
       (v.st.actsOnce h = true →
         (k.owner ≠ some v.g.gid → Becomes (.clwait h gang pd c b) s v { v.judged b.len pd true with wait := none }) ∧
         (k.owner = some v.g.gid → k.phase ≠ parity → exec (.clwait h gang pd c b) s = .next (View.put { u with
           s := if gang ∨ k.coll = true then l1Clear (dropLines u.s v.g.core k.lines) v.g.core else dropLines u.s v.g.core k.lines
           st := { v.judged b.len pd false with wait := none } })) ∧
         (k.owner = some v.g.gid → k.phase = parity → Becomes (.clwait h gang pd c b) s v
           (v.yields (.clwait gang pd c.val parity) b.len))))) ∧
  (∀ (s : State) (core n : Nat),
     let k := (getCore s core).cleat n
     let sum := (k.arrivals.map (·.n)).sum
     let more := k.flippedAt ≠ some s.clock ∧ 1 ≤ k.expect ∧ k.expect ≤ k.count
     let flips := decide (k.flippedAt ≠ some s.clock ∧ 1 ≤ k.expect ∧ k.expect ≤ k.count + sum)
     (k.arrivals = [] → k.armed = false ∨ ¬ more → exec (.cleatArrival core n) s = .next s) ∧
     (k.armed = true → k.arrivals ≠ [] ∨ more → ∀ o : Group, (∃ gid, k.owner = some gid ∧ getGroup s gid = some o) →
       (∀ a ∈ k.arrivals, a.grid = o.grid ∧ a.gangix = o.gangix) →
       ∃ t, exec (.cleatArrival core n) s = .next t ∧ t.groups = s.groups ∧
         (getCore t core).cleat n = { k with
           count := (if flips then k.count + sum - k.expect else k.count + sum) % 4096
           phase := k.phase != flips, flippedAt := if flips then some s.clock else k.flippedAt
           arrivals := [], settledAt := some s.clock, coll := k.coll || k.arrivals.any (·.coll)
           lines := (k.lines ++ k.arrivals.flatMap (·.lines)).eraseDups }) ∧
     (k.armed = false → ∀ (a : Arrival) (g : Group), k.arrivals = [a] → getGroup s a.gid = some g →
       ∃ t, exec (.cleatArrival core n) s = .next t ∧
         (getCore t core).cleat n = { k with arrivals := [], settledAt := some s.clock, lines := k.lines.eraseDups } ∧
         getGroup t a.gid = some { g with lostarr := min 0xFFFF (g.lostarr + 1) } ∧ ∀ j, j ≠ a.gid → getGroup t j = getGroup s j))

/-- WAITP completes in the clock in which it issues where its counter is at or below v, with the acquire of a wait on
collectives, or with that of the lines that completed copies wrote, and else waits; the waits of a strand, and those of a Capstan, complete in a later clock the same way: WAITP once its
counter is at or below v, CLWAIT once the phase has flipped or the group does not own the cleat, a Capstan's TAKE once the tile is
offered and free of writes and entries; before that nothing happens (R36, R236, R314, R315, R419, R423). -/
def Obligations.Waits : Prop :=
  let seen := fun (t : State) (g : Group) (p : Nat) => if p = 5 then l1Clear t g.core
    else if p = 3 ∨ p = 4 then dropLines t g.core ((g.copied.filter fun e => e.1 == p).map (·.2)) else t
  let flipped := fun (t : State) (core : Nat) (k : Cleat) (gang : Bool) =>
    if gang ∨ k.coll = true then l1Clear (dropLines t core k.lines) core else dropLines t core k.lines
  ((∀ (s : State) (v : View) (h : Hd) (path : Path) (b : BSrc), Ready s v h (needCleat b) →
     let u := v.charge (needCleat b)
     let p := path.code.toNat
     let n := (v.wordB b).toNat
     let held := (v.g.paths[p]?.getD []).length
     (v.st.actsOnce h = false → Becomes (.waitp h path b) s v (v.passed b.len)) ∧
     (v.st.actsOnce h = true → held ≤ n → exec (.waitp h path b) s = .next (View.put { u with
       s := seen u.s v.g p, st := { v.passed b.len with wait := none } })) ∧
     (v.st.actsOnce h = true → n < held → Becomes (.waitp h path b) s v (v.yields (.waitp p n) b.len))) ∧
   (∀ (s : State) (gid j : Nat) (v : View) (len since : Nat), viewOf s gid j 0 0 = some v → v.g.state = .resident →
     let done := fun (t : State) (st : Strand) => View.put { v with s := t, st := { st with wait := none, pc := st.pc + BitVec.ofNat 64 len } }
     (∀ p n, v.st.wait = some { kind := .waitp p n, since, len } →
       (v.g.pathCount p ≤ n → exec (.waitpComplete gid (some j)) s = .next (done (seen s v.g p) v.st)) ∧
       (n < v.g.pathCount p → exec (.waitpComplete gid (some j)) s = .next s)) ∧
     (∀ gang pd c parity, v.st.wait = some { kind := .clwait gang pd c parity, since, len } →
       let k := (getCore s v.g.core).cleat c
       (k.owner ≠ some v.g.gid → exec (.clwaitComplete gid (some j)) s = .next (done s (v.st.setPredEm pd true))) ∧
       (k.owner = some v.g.gid → k.phase ≠ parity →
         exec (.clwaitComplete gid (some j)) s = .next (done (flipped s v.g.core k gang) (v.st.setPredEm pd false))) ∧
       (k.owner = some v.g.gid → k.phase = parity → exec (.clwaitComplete gid (some j)) s = .next s)))) ∧
  (∀ (s : State) (gid : Nat) (v : CapView), capViewOf s gid = some v → v.g.state = .resident →
     let on := CapView.put { v with k := { v.k with wait := none } }
     (∀ p n, v.k.wait = some (.waitp p n) →
       (v.g.pathCount p ≤ n → exec (.waitpComplete gid none) s = .next (seen on v.g p)) ∧
       (n < v.g.pathCount p → exec (.waitpComplete gid none) s = .next s)) ∧
     (∀ gang c parity, v.k.wait = some (.clwait gang c parity) →
       let k := (getCore s v.g.core).cleat c
       (k.owner ≠ some v.g.gid → exec (.clwaitComplete gid none) s = .next on) ∧
       (k.owner = some v.g.gid → k.phase ≠ parity →
         exec (.clwaitComplete gid none) s = .next (flipped on v.g.core ((getCore on v.g.core).cleat c) gang)) ∧
       (k.owner = some v.g.gid → k.phase = parity → exec (.clwaitComplete gid none) s = .next s)) ∧
     (∀ t, v.k.wait = some (.take t) →
       (∀ since giver upto, v.g.ownerOf t = .offeredCapstan since giver upto →
         since < s.clock ∧ tilePending v.g t = false ∧ writeEntry v.g t = false ∧ readEntry v.g t = false →
         ∃ r w, exec (.takeComplete gid none) s = .next r ∧ capViewOf r gid = some w ∧ w.g.ownerOf t = .capstan ∧ w.k.wait = none ∧
           w.k.cpc = v.k.cpc) ∧
       ((∀ since giver upto, v.g.ownerOf t = .offeredCapstan since giver upto →
           ¬ (since < s.clock ∧ tilePending v.g t = false ∧ writeEntry v.g t = false ∧ readEntry v.g t = false)) →
         exec (.takeComplete gid none) s = .next s)))

/-- SACC changes an entry of the score table for each acting lane, in lane order; TOPK stores the k best of the first n entries,
best first and lower numbers first among equals, n and k from B as FMT F32 prepares it; in a group that is not Capstan-bound both are
illegal, once the slot of every V register that they name is mapped (R51, R124, R428, R429, R430; that R428's check follows R124's
is the model's reading, log 128). -/
def Obligations.ScoreTable : Prop :=
  ∀ (s : State) (v : View) (h : Hd) (op : SaccOp) (a : VR) (b : BSrc) (sa : SR),
    (∀ n, n = { needV .mem .f32 [] [(1, a.val)] b [] with noRegion := true } → curView s = some v → v.canIssue h n = true →
      let change := fun (t : List (Nat × Word)) (i : Nat) =>
        let j := (v.word a.val i).toNat % 4096
        let e := tget 0 t j
        let x : Word := BitVec.ofNat 32 (v.srcB .f32 b i).code
        tset 0 t j (match op with
          | .set => x
          | .add => BitVec.ofNat 32 (fpElem .add .f32 .rn false (v.nan i) (opdOf .f32 e.toNat 0xFF 0) (opdOf .f32 x.toNat 0xFF 0) (opdOf .f32 x.toNat 0xFF 0)).1
          | .max => BitVec.ofNat 32 (fpElem .max .f32 .rn false (v.nan i) (opdOf .f32 e.toNat 0xFF 0) (opdOf .f32 x.toNat 0xFF 0) (opdOf .f32 x.toNat 0xFF 0)).1)
      (v.g.capBound = false → v.st.mapped a.val = true → (∀ r, b = .v r → v.st.mapped r.val = true) →
        exec (.sacc h op a b) s = .next ((v.charge n).illegal h b.len)) ∧
      (v.st.mapped a.val = false → exec (.sacc h op a b) s =
        .next ((v.charge n).trapAt 0x04 b.len (v.st.acting h) (BitVec.ofNat 32 (7 + a.val * 16 + 1 * 8192)) 0)) ∧
      (v.g.capBound = true → v.open h n = true →
        Leaves (.sacc h op a b) s v { v.g with score := (maskLanes (v.st.acting h)).foldl change v.g.score } (v.passed b.len))) ∧
    (∀ nd, nd = { port := .mem, len := b.len, sregs := sa.val :: b.ss .b32, path := some 2 } → curView s = some v → v.canIssue h nd = true →
      let i := Instr.topk h sa b
      let u := v.charge nd
      let n := min ((v.srcB .f32 b 0).code % 2 ^ 13) 4096
      let k := min ((v.srcB .f32 b 0).code / 2 ^ 16 % 2 ^ 13) n
      let off := (readS v.g sa.val).toNat
      (v.g.capBound = false → exec i s = .next (u.illegal h b.len)) ∧
      (v.g.capBound = true → v.open h nd = true → v.st.actsOnce h = false → Becomes i s v (v.passed b.len)) ∧
      (v.g.capBound = true → v.open h nd = true → v.st.actsOnce h = true →
        (off % 8 ≠ 0 → exec i s = .next (u.trapAt 0x06 b.len (v.st.acting h) 0 off)) ∧
        (off % 8 = 0 → k = 0 → Becomes i s v (v.passed b.len)) ∧
        (off % 8 = 0 → k ≠ 0 → v.g.shbytes < off + 8 * k → exec i s = .next (u.trapAt 0x08 b.len (v.st.acting h) 4 off)) ∧
        (off % 8 = 0 → k ≠ 0 → off + 8 * k ≤ v.g.shbytes → ∃ order : List (Nat × Word),
          order.Perm ((List.range n).map fun j => (j, tget 0 v.g.score j)) ∧
          order.Pairwise (fun x y => scoreKey y.2 < scoreKey x.2 ∨ (scoreKey y.2 = scoreKey x.2 ∧ x.1 < y.1)) ∧
          Enqueues i s v b.len .store false true ((order.take k).mapIdx fun m e =>
            { addr := off + 8 * m, pa := off + 8 * m, place := .shared v.g.gid, len := 8,
              data := leBytes 4 e.1 ++ leBytes 4 e.2.toNat }) (some 2) [] false)))

/-- CNTRD reads a counter into Sd, or into Sd and Sd + 1; CNTCLR clears one, but for what has landed on QSAT or QUND in its
clock (R416, R417, R420, R431). That a CNTRD of a PERFCNT reads the counter after its own instruction has been counted is the model's
reading (log 20). -/
def Obligations.CounterReads : Prop :=
  (∀ (s : State) (v : View) (h : Hd) (sd : SR) (id : BitVec 8) (wide : Bool) (n : Need),
    wide = (id == 0x0A || id == 0x0B || (decide (0x30 ≤ id.toNat) && decide (id.toNat ≤ 0x3F))) →
    n = { port := .ctl, len := 8, sregs := if wide then [sd.val, sd.val + 1] else [sd.val] } → Ready s v h n →
    Once (.cntrd h sd id) s v h 8 (∃ x : DWord,
      Flies (.cntrd h sd id) s v 8 2 []
        (if wide then [(sd.val, x.extractLsb' 0 32), (sd.val + 1, x.extractLsb' 32 32)] else [(sd.val, x.extractLsb' 0 32)]) ∧
      (id.toNat < 8 → x = BitVec.ofNat 64 (v.g.pathCount id.toNat)) ∧
      (id = 0x08 → x = BitVec.ofNat 64 v.g.qsat) ∧ (id = 0x09 → x = BitVec.ofNat 64 v.g.qund) ∧
      (id = 0x0A → x = v.g.wstat0) ∧ (id = 0x0B → x = v.g.wstat1) ∧ (id = 0x0C → x = BitVec.ofNat 64 v.g.lostarr) ∧
      (∀ c, c < 32 → id.toNat = 0x10 + c →
        let k := (getCore s v.g.core).cleat c
        (k.owner ≠ some v.g.gid → x = 0) ∧
        (k.owner = some v.g.gid → x = BitVec.ofNat 64
          (k.count + k.expect * 2 ^ 12 + k.phase.toNat * 2 ^ 24 + k.armed.toNat * 2 ^ 25 + 2 ^ 26))) ∧
      (∀ c : Fin 16, id.toNat = 0x30 + c.val → x = (getCore (v.charge n).s v.g.core).perf[c.val]))) ∧
  (∀ (s : State) (v : View) (h : Hd) (id : BitVec 8), Ready s v h { port := .ctl, len := 8, noRegion := true } →
    let clears := fun (g : Group) => Leaves (.cntclr h id) s v g (v.passed 8)
    Once (.cntclr h id) s v h 8 (
      (id = 0x08 → clears { v.g with qsat := v.g.qsatNow }) ∧ (id = 0x09 → clears { v.g with qund := v.g.qundNow }) ∧
      (id = 0x0A → clears { v.g with wstat0 := 0 }) ∧ (id = 0x0B → clears { v.g with wstat1 := 0 }) ∧
      (id = 0x0C → clears { v.g with lostarr := 0 }) ∧ (id = 0x40 → clears { v.g with score := [] })))

/-! ### Registers VI: ownership, control flow, traps and CSRs -/

/-- GIVE offers the tile of a mapped slot to the Capstan, which the strand loses at once; TAKE maps an offered tile that is free
of writes and scoreboard entries, and else waits; both raise TILE_NOT_OWNED where the group is not Capstan-bound or the slot is
not as it must be (R33 to R38, R233, R234, R237). A TAKE that waits completes once its tile may be taken, and not before; TQRY
reads owner words: the pending flag in bit 15, the state in bits 1:0, and the strand and slot it names (R36, R125, R235). -/
def Obligations.TileOwnership : Prop :=
  (∀ (s : State) (v : View) (h : Hd) (q : QR) (n : Need), n = { port := .ctl, len := 8, noRegion := true } → Ready s v h n →
     let u := v.charge n
     let w := v.st.q[q.val]
     let tile := w.toNat % 512
     let traps := fun (i : Instr) (reason t : Nat) =>
       exec i s = .next (u.trapAt 0x04 8 (v.st.acting h) (BitVec.ofNat 32 (reason + t * 16)) 0)
     (v.st.actsOnce h = false → Becomes (.give h q) s v (v.passed 8) ∧ Becomes (.take h q) s v (v.passed 8)) ∧
     (v.st.actsOnce h = true →
       (v.g.capBound = false → traps (.give h q) 2 tile ∧ traps (.take h q) 2 tile) ∧
       (v.g.capBound = true → w.getLsbD 15 = false → traps (.give h q) 1 0) ∧
       (v.g.capBound = true → w.getLsbD 15 = true → traps (.take h q) 3 tile ∧
         Leaves (.give h q) s v (v.g.withOwner tile (.offeredCapstan s.clock v.j s.nextSeq)) { v.passed 8 with q := v.st.q.set q.val 0 }) ∧
       (v.g.capBound = true → w.getLsbD 15 = false →
         (∀ t since upto, offerTo v.g v.j q.val = some (t, since, upto) →
           since < s.clock ∧ tilePending v.g t = false ∧ writeEntry v.g t = false ∧ readEntry v.g t = false →
           Leaves (.take h q) s v (v.g.withOwner t (.strand v.j q.val)) { v.passed 8 with
             q := v.st.q.set q.val (BitVec.ofNat 16 (0x8000 + t)), wait := none,
             acc := v.st.acc ++ [{ seq := s.nextSeq, kind := .handoff (.capstan v.g.gid) upto, isLd := true, isSt := true,
                                   pc := v.st.pc, iw0 := v.iw0, iw1 := v.iw1, inRegion := v.st.active, inHandler := v.st.handler.isSome }] }) ∧
         ((∀ t since upto, offerTo v.g v.j q.val = some (t, since, upto) →
             ¬ (since < s.clock ∧ tilePending v.g t = false ∧ writeEntry v.g t = false ∧ readEntry v.g t = false)) →
           Becomes (.take h q) s v (v.yields (.take q.val) 8))))) ∧
  ((∀ (s : State) (gid j : Nat) (v : View) (k len since : Nat), viewOf s gid j 0 0 = some v → v.g.state = .resident →
     v.st.wait = some { kind := .take k, since, len } →
     (∀ t at_ upto, offerTo v.g v.j k = some (t, at_, upto) →
       (at_ < s.clock ∧ tilePending v.g t = false ∧ writeEntry v.g t = false ∧ readEntry v.g t = false →
         ∃ r w, exec (.takeComplete gid (some j)) s = .next r ∧ viewOf r gid j 0 0 = some w ∧ w.g.ownerOf t = .strand j k ∧
           w.st.wait = none ∧ w.st.q = v.st.q.setIfInBounds k (BitVec.ofNat 16 (0x8000 + t)) ∧ w.st.pc = v.st.pc + BitVec.ofNat 64 len ∧
           w.st.readyAt = s.clock + 1) ∧
       (¬ (at_ < s.clock ∧ tilePending v.g t = false ∧ writeEntry v.g t = false ∧ readEntry v.g t = false) →
         exec (.takeComplete gid (some j)) s = .next s)) ∧
     (offerTo v.g v.j k = none → exec (.takeComplete gid (some j)) s = .next s)) ∧
   (∀ (s : State) (v : View) (h : Hd) (slot : Bool) (d : VR) (b : BSrc), Ready s v h (needV .ctl .b32 [(0, d.val)] [] b []) →
     ∃ word : Nat → Word, Flies (.tqry h slot d b) s v b.len 2 (v.results h d word) [] ∧
       ∀ i,
         let x := (v.bword b i).toNat
         let tile := if slot then
             (if v.st.mapped (8 * (x % 32)) then some (v.st.tileOf (8 * (x % 32))) else (offerTo v.g v.j (x % 32)).map (·.1))
           else some (x % 512)
         (tile = none → word i = 0) ∧
         ∀ t, tile = some t → word i = BitVec.ofNat 32 ((if tilePending v.g t then 2 ^ 15 else 0) + match v.g.ownerOf t with
           | .free => 0
           | .capstan => 1
           | .strand j k => 2 + j * 2 ^ 3 + k * 2 ^ 8
           | .offeredCapstan _ _ _ => 3 + 2 ^ 2
           | .offeredStrand j k _ _ => 3 + j * 2 ^ 3 + k * 2 ^ 8)))

/-- BRA, BREZ, BRX, CALL and RET decide one direction for the strand (R240): with P7 as guard it is fixed; else taken where the
guard holds in every lane of EM, not taken where it holds in none, and DIVERGENT_BRANCH between. A taken branch sets the PC
and the next instruction issues 3 clocks later; a target that is not a multiple of 8 traps at the branch (R239, R241). CALL writes
its link in every live lane; that it lands after 2 clocks is the model's choice (log 112). EXIT
clears LIVE and EM in the lanes where it acts, and the strand ends with its last live lane (R127, R242). -/
def Obligations.ControlFlow : Prop :=
  (∀ (s : State) (v : View) (h : Hd) (off : Word) (off24 : BitVec 24) (n : SR) (d a : VR) (need : Need), Ready s v h need →
     let u := v.charge need
     let taken := (h.p = 7 ∧ h.neg = false) ∨ (h.p ≠ 7 ∧ v.st.acting h = v.st.em ∧ v.st.em ≠ 0)
     let untaken := (h.p = 7 ∧ h.neg = true) ∨ (h.p ≠ 7 ∧ v.st.acting h = 0)
     let jumps := fun (i : Instr) (target : DWord) =>
       (target.toNat % 8 = 0 → Becomes i s v { v.passed 8 with pc := target, readyAt := s.clock + 3 }) ∧
       (target.toNat % 8 ≠ 0 → exec i s = .next (u.trapAt 0x06 8 v.st.em 0 target.toNat))
     let branches := fun (i : Instr) (go : Prop) =>
       (taken → go) ∧ (untaken → Becomes i s v (v.passed 8)) ∧
       (¬ taken → ¬ untaken → exec i s = .next (u.trapAt 0x05 8 (v.st.acting h) 0 0))
     let near := v.st.pc + off24.signExtend 64 * 8
     (need = { port := .ctl, len := 8 } →
       branches (.bra h off) (jumps (.bra h off) (v.st.pc + off.signExtend 64 * 8)) ∧
       (v.st.acting h = 0 → jumps (.brez h off) (v.st.pc + off.signExtend 64 * 8)) ∧
       (v.st.acting h ≠ 0 → Becomes (.brez h off) s v (v.passed 8))) ∧
     (need = { port := .ctl, len := 8, sregs := [n.val, n.val + 1] } →
       branches (.brx h n) (jumps (.brx h n) (readS v.g (n.val + 1) ++ readS v.g n.val))) ∧
     (need = { port := .ctl, len := 8, named := [(0, d.val), (0, d.val + 1)] } →
       branches (.call h d off24)
         ((near.toNat % 8 = 0 → Becomes (.call h d off24) s v { v.passed 8 with
             pc := near, readyAt := s.clock + 3,
             flights := v.st.flights ++ [{
               seq := s.nextSeq, issuedAt := s.clock, landAt := s.clock + 2,
               v := v.vwrites d.val v.st.live (fun _ => ((v.st.pc + 8).extractLsb' 0 32, 0xFF)) ++
                    v.vwrites (d.val + 1) v.st.live (fun _ => ((v.st.pc + 8).extractLsb' 32 32, 0xFF)) }] }) ∧
           (near.toNat % 8 ≠ 0 → exec (.call h d off24) s = .next (u.trapAt 0x06 8 v.st.em 0 near.toNat)))) ∧
     (need = { port := .ctl, len := 8, named := [(1, a.val), (1, a.val + 1)] } →
       let lanes := if v.st.em = 0 then v.st.live else v.st.em
       branches (.ret h a) (∀ i : Nat, lanes.getLsbD i = true → i < 32 → (∀ k, k < i → lanes.getLsbD k = false) →
         ((∀ k, k < 32 → v.st.em.getLsbD k = true → v.pair a.val k = v.pair a.val i) → jumps (.ret h a) (v.pair a.val i)) ∧
         (∀ bad : Word, bad ≠ 0 → (∀ k, k < 32 → bad.getLsbD k = (v.st.em.getLsbD k && v.pair a.val k != v.pair a.val i)) →
           exec (.ret h a) s = .next (u.trapAt 0x05 8 bad 0 0))))) ∧
  (∀ (s : State) (v : View) (h : Hd), Ready s v h { port := .ctl, len := 8 } →
     let live := v.st.live &&& ~~~(v.st.acting h)
     (live ≠ 0 → Becomes (.exit h) s v { v.passed 8 with live, em := v.st.em &&& live }) ∧
     (live = 0 → Becomes (.exit h) s v { v.passed 8 with pc := v.st.pc, live, em := v.st.em &&& live, pdone := true, active := false }))

/-- TRAP, BKPT and an extension opcode enter the handler with cause 0x14, 0x15 or 0x03: the record names the instruction and
the next one to resume at, EXTRA is the code; a fault in a handler, or with no handler, ends the context. BKPT with breakpoints
enabled asks for a halt instead (R83, R84, R87, R244, R436, R440, R444, R445). That the strand then stands after the BKPT, and that a
handler remembers the BKPT at which it halted, are the model's choices (logs 113 and 76); so are that no check of the D field of an
extension opcode applies (log 17), and that an ENTRY or UNMASK which cannot be read, or a record which cannot be written, ends the context
too (log 138). -/
def Obligations.TrapInstructions : Prop :=
  ∀ (s : State) (v : View) (h : Hd) (b : BSrc), Ready s v h { port := .ctl, len := b.len } →
    let u := v.charge { port := .ctl, len := b.len }
    let rec_ := fun (cause : Nat) (len : Nat) (extra : Word) => ({
      cause, pc := v.st.pc, rpc := v.st.pc + BitVec.ofNat 64 len, lanes := v.st.acting h, extra, long := len == 16, iw0 := v.iw0,
      iw1 := if len = 16 then v.iw1 else 0 } : TrapRec)
    let raises := fun (i : Instr) (u : View) (t : TrapRec) =>
      (u.takesTraps → exec i s = .next (u.trapped t)) ∧
      (u.g.build = none → u.st.quiet = true →
        u.st.handler ≠ none ∨ sysReads u.s u.c u.c.trapvec 12 = false ∨ sysNat u.s u.c u.c.trapvec 8 = 0 ∨
          blockWritable u.s u.c (0x100 + 64 * u.j) 64 = false →
        exec i s = .next (fatalEnd u.put u.c t (u.st.handler != none) u.j u.st.em))
    let code := match b with
      | .imm8 n => n.signExtend 32
      | .imm32 w => w
      | _ => v.wordB b
    (v.st.actsOnce h = false → Becomes (.trap h b) s v (v.passed b.len) ∧ Becomes (.bkpt h b) s v (v.passed b.len)) ∧
    (v.st.actsOnce h = true →
      raises (.trap h b) u (rec_ 0x14 b.len code) ∧
      (v.c.breakpoints = false → raises (.bkpt h b) u (rec_ 0x15 b.len code)) ∧
      (v.c.breakpoints = true → Leaves (.bkpt h b) s v { v.g with stopReq := some { future := .none, since := s.clock, halt := true } }
        { v.passed b.len with handler := v.st.handler.map fun x => { x with bkpt := true } })) ∧
    (∀ w0 w1 : DWord, (fieldsOf w0 w1).hd = h → wordBytes w0 = b.len → raises (.extensionOpcode w0 w1) u (rec_ 0x03 b.len 0))

/-- TRET resumes a strand trap at RPC, TRET.skip after the instruction that trapped, with EM from SEM and LIVE, and the strand is
in no handler; outside a handler each form is illegal, after the checks of R124 (R244, R245, R444). From a Capstan trap the strand
resumes at RPC in each form, and the Capstan reloads from CREG what R438 names and re-enters the bundle at SRESUME, or for TRET.skip and
TRET.emu after that slot, at bundle NPC where SRESUME is 8; a CREG that breaks R192, or an SRESUME above 8, ends the context with a
fatal record (R438, R444). TRET.emu of an emulated FP64 instruction writes Vs to its destination in the record's lanes, checked as the
instruction's result would have been, and resumes after it; it waits for what is still in flight to that destination (R137); where the
record names no instruction with a V destination it is TRET.skip (R165, R245). The model's choices: what is illegal is so after R124's
checks (log 128), an odd Vs for a pair is illegal (log 48), the next trap that waited becomes pending (log 44), what happens where the record cannot be read (log 131), the EN that the check
of TRET.emu uses (log 140), the clock in which its words land (log 141), and what a word that is no PC or CPC does (logs 142 and 143). -/
def Obligations.TrapReturns : Prop :=
  (∀ (s : State) (v : View) (h : Hd) (need : Need), need = { port := .ctl, len := 8, sent := true } →
     Ready s v h need →
     let w := fun n => sysNat s v.c (v.c.trapvec + 0x100 + 64 * v.j + 8 * n) 8
     (v.st.handler = none → exec (.tret h) s = .next ((v.charge need).illegal h 8) ∧
       exec (.tretSkip h) s = .next ((v.charge need).illegal h 8)) ∧
     (v.st.handler ≠ none →
       (v.st.actsOnce h = false → Becomes (.tret h) s v (v.passed 8) ∧ Becomes (.tretSkip h) s v (v.passed 8)) ∧
       (v.st.actsOnce h = true → v.tretStop = none → w 0 / 2 ^ 8 % 4 = 0 →
         let back := fun (pc : Nat) => { v.passed 8 with
           pc := BitVec.ofNat 64 pc, em := BitVec.ofNat 32 (w 5) &&& v.st.live, handler := none,
           trap := v.st.later.head?, later := v.st.later.tail }
         Becomes (.tret h) s v (back (w 2)) ∧
         Becomes (.tretSkip h) s v (back (w 1 + if w 0 / 2 ^ 10 % 2 = 1 then 16 else 8))))) ∧
  (∀ (s : State) (v : View) (h : Hd) (a : VR) (i : Instr) (skips : Bool) (need : Need) (k : Capstan),
     (i = .tret h ∧ skips = false ∧ need = { port := .ctl, len := 8, sent := true }) ∨
     (i = .tretSkip h ∧ skips = true ∧ need = { port := .ctl, len := 8, sent := true }) ∨
     (i = .tretEmu h a ∧ skips = true ∧ need = {
        port := .ctl, len := 8, sent := true, named := if a.val % 2 = 0 then [(1, a.val), (1, a.val + 1)] else [(1, a.val)] }) →
     Ready s v h need → v.st.handler ≠ none → v.st.actsOnce h = true → v.tretStop = none → v.g.cap = some k →
     let w := fun n => sysNat s v.c (v.c.trapvec + 0x100 + 64 * v.j + 8 * n) 8
     let creg := fun (off n : Nat) => sysNat s v.c (v.c.trapvec + off) n
     w 0 / 2 ^ 8 % 4 ≠ 0 →
     let sresume := creg 0x900 8 / 2 ^ 16 % 16
     let cstat := creg 0x1A90 4
     let npc : DWord := BitVec.ofNat 64 (creg 0x1AE8 8)
     let good := sresume ≤ 8 ∧ cstat / 2 ^ 8 % 32 ≤ 24 ∧ cstat / 2 ^ 6 % 4 = 0 ∧ cstat / 2 ^ 14 % 2 ^ 18 = 0
     let past8 := skips = true ∧ sresume = 8
     (good → Leaves i s v { v.g with cap := some { k with
         a := Vector.ofFn fun n => if n.val = 0 then 0 else BitVec.ofNat 64 (creg (0x1000 + 8 * n.val) 8)
         z := Vector.ofFn fun n => BitVec.ofNat 512 (creg (0x1200 + 64 * n.val) 64)
         x := Vector.ofFn fun n => BitVec.ofNat 128 (creg (0x1A00 + 16 * n.val) 16)
         l := Vector.ofFn fun n => BitVec.ofNat 32 (creg (0x1A80 + 4 * n.val) 4)
         mth := cstat / 2 ^ 8 % 32, mse := cstat / 2 ^ 13 % 2 == 1
         cpc := if past8 then npc else BitVec.ofNat 64 (creg 0x910 8)
         reenter := if past8 then none else some (if skips then sresume + 1 else sresume, npc, skips)
         part := none, taken := none, delivered := false } }
       { v.passed 8 with
         pc := BitVec.ofNat 64 (w 2), em := BitVec.ofNat 32 (w 5) &&& v.st.live, handler := none
         trap := v.st.later.head?, later := v.st.later.tail }) ∧
     (¬ good → let u := v.charge need
       exec i s = .next (fatalEnd u.put u.c (u.trapRec 0x01 8 u.st.pc 0 0 0) true u.j u.st.em))) ∧
  (∀ (s : State) (v : View) (h : Hd) (a : VR) (need : Need),
     need = { port := .ctl, len := 8, sent := true, named := if a.val % 2 = 0 then [(1, a.val), (1, a.val + 1)] else [(1, a.val)] } →
     Ready s v h need →
     (v.st.handler = none → exec (.tretEmu h a) s = .next ((v.charge need).illegal h 8)) ∧
     (v.st.handler ≠ none → v.st.actsOnce h = false → Becomes (.tretEmu h a) s v (v.passed 8)) ∧
     (v.emuBusy h = true → exec (.tretEmu h a) s = .next s) ∧
     (v.st.handler ≠ none → v.st.actsOnce h = true → v.emuBusy h = false → v.tretStop = none →
     let w := fun n => sysNat s v.c (v.c.trapvec + 0x100 + 64 * v.j + 8 * n) 8
     let back := { v.passed 8 with
       pc := BitVec.ofNat 64 (w 1 + if w 0 / 2 ^ 10 % 2 = 1 then 16 else 8), em := BitVec.ofNat 32 (w 5) &&& v.st.live
       handler := none, trap := v.st.later.head?, later := v.st.later.tail }
     w 0 / 2 ^ 8 % 4 = 0 →
     ((∀ i, decodeWords (BitVec.ofNat 64 (w 6)) (BitVec.ofNat 64 (w 7)) = .ok i → emuDest i = none) →
       Becomes (.tretEmu h a) s v back) ∧
     (∀ i (d : Nat) (pair : Bool) (checked : Option (Fmt × Nat)),
       decodeWords (BitVec.ofNat 64 (w 6)) (BitVec.ofNat 64 (w 7)) = .ok i → emuDest i = some (d, pair, checked) →
       (pair = true → a.val % 2 = 1 → exec (.tretEmu h a) s = .next ((v.charge need).illegal h 8)) ∧
       (pair = false ∨ a.val % 2 = 0 → v.st.mapped d = true →
         let lanes : Word := BitVec.ofNat 32 (w 3)
         Becomes (.tretEmu h a) s v { back with flights := v.st.flights ++ [{
           seq := s.nextSeq, issuedAt := s.clock, landAt := s.clock + 2
           v := v.vwrites d lanes (fun k => readV v.g v.st a.val k) ++
                if pair then v.vwrites (d + 1) lanes (fun k => readV v.g v.st (a.val + 1) k) else []
           chk := if v.g.sigctl.getLsbD 0 then checked.map fun x => {
             pc := BitVec.ofNat 64 (w 1), iw0 := BitVec.ofNat 64 (w 6), iw1 := BitVec.ofNat 64 (w 7), fmt := x.1, elems := x.2, lanes
             regs := [(v.st.tileOf d, d % 8)] } else none }] }))))

/-- CSRR reads a CSR into every acting lane; CSRW writes SIGTH, SIGCTL, which changes from the next clock, SRSEED, which seeds
every generator of the group, or RCPDEPTH, and a value outside the CSR's limits is illegal (R100, R134, R247, R249). -/
def Obligations.ControlRegisters : Prop :=
  ∀ (s : State) (v : View) (h : Hd) (d : VR) (csr : BitVec 12) (b : BSrc),
    (Ready s v h { port := .ctl, len := 8, named := [(0, d.val)] } →
      ∃ word : Word, Flies (.csrr h d csr) s v 8 2 (v.results h d fun _ => word) [] ∧
        (csr = 0x00 → word = if s.variant = .y2s then 0x6000 else 0x8007) ∧
        (csr = 0x01 → word = 0x12) ∧ (csr = 0x04 → word = 0x466) ∧ (csr = 0x11 → word = BitVec.ofNat 32 v.c.tenant) ∧
        (csr = 0x36 → word = BitVec.ofNat 32 (getCore s v.g.core).pwfrz.toNat) ∧
        (csr = 0x37 → word = BitVec.ofNat 32 (getCore s v.g.core).pwlim.toNat) ∧
        (csr = 0x41 → word = BitVec.ofNat 32 v.c.rcpcores.toNat) ∧ (csr = 0x42 → word = BitVec.ofNat 32 v.c.tktimeout.toNat) ∧
        (csr = 0x10 → word = v.c.ctxid) ∧ (csr = 0x12 → word = v.c.tslice) ∧ (csr = 0x13 → word = v.c.pregrace) ∧
        (csr = 0x14 → word = BitVec.ofNat 32 v.c.trapvec) ∧ (csr = 0x15 → word = BitVec.ofNat 32 (v.c.trapvec / 2 ^ 32)) ∧
        (csr = 0x16 → word = BitVec.ofNat 32 v.c.tagbase) ∧ (csr = 0x17 → word = BitVec.ofNat 32 (v.c.tagbase / 2 ^ 32)) ∧
        (csr = 0x20 → word = v.st.sigth) ∧ (csr = 0x21 → word = v.g.sigctl) ∧ (csr = 0x22 → word = v.g.srseed) ∧
        (csr = 0x30 → word = v.c.step.extractLsb' 0 32) ∧ (csr = 0x31 → word = v.c.step.extractLsb' 32 32) ∧
        (csr = 0x32 → word = BitVec.ofNat 32 v.g.vcyc) ∧ (csr = 0x33 → word = BitVec.ofNat 32 (v.g.vcyc / 2 ^ 32)) ∧
        (csr = 0x34 → word = BitVec.ofNat 32 v.g.qsat) ∧ (csr = 0x35 → word = BitVec.ofNat 32 v.g.qund) ∧
        (csr = 0x40 → word = BitVec.ofNat 32 v.c.rcpdepth) ∧ (csr = 0x43 → word = v.c.gangage) ∧ (csr = 0x44 → word = v.c.joinspin)) ∧
    (∀ n : Need, n = { port := .ctl, len := b.len, sregs := b.ss .b32, noRegion := true } → Ready s v h n →
      let i := Instr.csrw h csr b
      let u := v.charge n
      let w := v.wordB b
      let illegal := exec i s = .next (u.illegal h b.len)
      (v.st.actsOnce h = false → Becomes i s v (v.passed b.len)) ∧
      (v.st.actsOnce h = true →
        (csr = 0x20 → (w.toNat ≤ 53 → Becomes i s v { v.passed b.len with sigth := w }) ∧ (53 < w.toNat → illegal)) ∧
        (csr = 0x21 → (w.toNat ≤ 1 → Leaves i s v { v.g with sigNext := some w } (v.passed b.len)) ∧ (1 < w.toNat → illegal)) ∧
        (csr = 0x22 → Leaves i s v { v.g with
            srseed := w, cap := v.g.cap.map fun k => { k with gen := seedUnit w 32 },
            strands := v.g.strands.mapIdx fun j st => { st with gen := seedUnit w j } }
          { v.passed b.len with gen := seedUnit w v.j }) ∧
        (csr = 0x40 → (1 ≤ w.toNat ∧ w.toNat ≤ 8 → exec i s = .next (View.put { u with
            c := { v.c with rcpdepth := w.toNat }, st := v.passed b.len })) ∧ (w = 0 ∨ 8 < w.toNat → illegal))))

/-- RGNBEG begins a region and records where it restarts, RGNEND ends it, and the loads in flight are of no region then; a region
begun twice or ended outside one traps, and inside one the instructions that R322 lists change nothing and raise REGION_VIOLATION,
after the checks of R56 and R124 (R320, R321, R322). -/
def Obligations.Regions : Prop :=
  (∀ (s : State) (v : View) (y : Bool), Ready s v { y } { port := .ctl, len := 8 } →
    let u := v.charge { port := .ctl, len := 8 }
    (v.st.active = false →
      Becomes (.rgnbeg y) s v { v.passed 8 with active := true, rgnpc := (v.st.pc + 8) &&& 0x00FFFFFFFFFFFFFF, rgnem := v.st.em } ∧
      exec (.rgnend y) s = .next (u.trapAt 0x13 8 (v.st.acting { y }) 3 0)) ∧
    (v.st.active = true →
      Becomes (.rgnend y) s v { v.passed 8 with active := false, acc := v.st.acc.map fun e => { e with inRegion := false } } ∧
      exec (.rgnbeg y) s = .next (u.trapAt 0x13 8 (v.st.acting { y }) 2 0))) ∧
  (∀ (s : State) (v : View) (h : Hd) (i : Instr) (n : Need), curView s = some v → v.st.active = true → v.st.handler = none →
    v.canIssue h n = true → n.coll = false ∨ v.s.hasFeature = true → v.st.unowned n.named = none →
    let raises := exec i s = .next ((v.charge n).trapAt 0x13 n.len (v.st.acting h) 1 0)
    (∀ (w : Width) (wide : Bool) (op : AOp) (f : Fmt) (ord : Order) (sc : Scope) (d c : VR) (base : MBase) (idx : BSrc) (disp : BitVec 8)
        (cm : CmoOp) (level : CmoLevel) (a : Fin 256) (len : BSrc), (i, n) ∈ [
      (Instr.st h w d base idx disp, { needM true w (dataRegs 0 w d) base idx [] (some 1) with
        noRegion := true, noRecompute := true, readsD := true }),
      (.stt h w d base idx disp, { needM true w (dataRegs 0 w d) base idx [] (some 1) with
        noRegion := true, noRecompute := true, readsD := true }),
      (.atom h op f ord sc d base idx c, { needM true .b32 [(0, d.val)] base idx [(3, c.val)] (some 0) with
        noRegion := true, noRecompute := true }),
      (.cas h wide ord sc d base idx c, { needM true .b32 (wideRegs 0 wide d) base idx (wideRegs 3 wide c) (some 0) with
        noRegion := true, noRecompute := true, readsD := true }),
      (.atoms h op f ord d base idx c, { needM false .b32 [(0, d.val)] base idx [(3, c.val)] (some 2) with noRegion := true }),
      (.cass h wide ord d base idx c, { needM false .b32 (wideRegs 0 wide d) base idx (wideRegs 3 wide c) (some 2) with
        noRegion := true, readsD := true }),
      (.red h op f ord sc base idx c, { needM true .b32 [] base idx [(3, c.val)] (some 1) with noRegion := true, noRecompute := true }),
      (.cmo h cm level a len, { needPair (2 * a.val) len with path := some 1, noRegion := true, noRecompute := true })] → raises) ∧
    (∀ (q : QR) (b : Fin 16) (x : BSrc) (pd : PR) (c : Fin 32) (id : BitVec 8) (csr : BitVec 12), (i, n) ∈ [
      (Instr.give h q, { port := .ctl, len := 8, noRegion := true }), (.take h q, { port := .ctl, len := 8, noRegion := true }),
      (.barSync h b x, needBar x), (.barArrive h b x, needBar x),
      (.clarm h pd c x, { needCleat x with noRegion := true, preds := [pd] }),
      (.clarmFree h pd c, { needCleat (.imm8 0) with noRegion := true, preds := [pd] }),
      (.tick h, { port := .ctl, len := 8, noRegion := true, noRecompute := true, drained := true }),
      (.cntclr h id, { port := .ctl, len := 8, noRegion := true }),
      (.csrw h csr x, { port := .ctl, len := x.len, sregs := x.ss .b32, noRegion := true })] → raises) ∧
    (∀ (x : BSrc) (c : Fin 32) (gang : Bool) (pos : Fin 16) (op : SaccOp) (va : VR),
      (i = .clarv h gang c pos x → n = { needCleat x with noRegion := true, drained := true } →
        pos.val < v.g.gangsize → gang = true ∨ pos.val = v.g.gangpos → raises) ∧
      (i = .sacc h op va x → n = { needV .mem .f32 [] [(1, va.val)] x [] with noRegion := true } → v.g.capBound = true → raises)) ∧
    (∀ (pd : PR) (f : Fmt) (kind : CollKind) (sd m : SR) (a : Fin 256) (x : BSrc), (i, n) ∈ [
      (Instr.launch h pd a, needLaunch (2 * a.val) pd),
      (.join h pd a x, { port := .ctl, len := x.len, noRegion := true, noRecompute := true
                         sregs := [2 * a.val, 2 * a.val + 1] ++ x.ss .f64, preds := [pd] }),
      (.coll h f kind sd a m, { port := .mem, len := 8, coll := true, path := some 5, noRegion := true, noRecompute := true
                                sregs := [sd.val, 2 * a.val, 2 * a.val + 1, m.val, m.val + 1], drained := true }),
      (.tkstat h sd a x, needTkstat sd.val (2 * a.val) x), (.tkstatWait h sd a x, needTkstat sd.val (2 * a.val) x),
      (.tkreform h pd a m, needTkreform (2 * a.val) m.val pd)] → raises) ∧
    (∀ (path : Fin 8) (a : Fin 128), n = needCopy (8 * a.val) →
      (v.st.actsOnce h = false ∨ (v.capIssued = false ∧ ∀ isG, copyRoom s v.g (v.copyArgs isG path.val (8 * a.val)).flags = true)) →
      i = .copy h path a ∨ i = .copyg h path a → raises) ∧
    (∀ (sx m : SR) (a : Fin 256) (b : BSrc) (pd : PR) (need : BSrc → List Nat → Need),
      (need = fun b ss =>
        { needPair (2 * a.val) b with
          sregs := [2 * a.val, 2 * a.val + 1] ++ b.ss .b32 ++ ss, path := some 1, noRegion := true, noRecompute := true
          drained := true }) →
      (i, n) ∈ [
        (Instr.kvapp h sx a, need (.imm8 0) [sx.val, sx.val + 1]), (.kvfork h sx a m, need (.s m) [sx.val, sx.val + 1]),
        (.kvrel h a, need (.imm8 0) []), (.kvsetMap h sx a b, need b [sx.val]), (.kvsetNew h sx a b, need b [sx.val, sx.val + 1]),
        (.kvsetAbsent h a b, need b []), (.kvmove h sx a, need (.imm8 0) [sx.val, sx.val + 1]),
        (.belayAdd h pd a b, { needTable a b with preds := [pd] }), (.belayDrop h pd a b, { needTable a b with preds := [pd] }),
        (.retireRcp h pd a b, { needTable a b with preds := [pd] }), (.retireBly h pd a b, { needTable a b with preds := [pd] }),
        (.sched h pd a b, { needTable a b with path := none, preds := [pd] })] → raises))

/-! ### Queues I: LAUNCH and JOIN -/

/-- LAUNCH checks its record at issue and waits, with its path counter raised; at least 40 clocks later the record enters the
pending queue, Pd false, or with four pending there the spill list, Pd true; of LAUNCHes of one clock, that of the lower strand first (R334, R341, R342,
R343). JOIN completes where bits
62:0 of the counter have reached its value, with Pd the counter's bit 63 and an acquire at device scope; else it waits, and completes
in a later clock the same way (R329, R344). -/
def Obligations.LaunchesAndJoins : Prop :=
  ((∀ (s : State) (v : View) (h : Hd) (pd : PR) (a : Fin 256), Ready s v h (needLaunch (2 * a.val) pd) →
     let i := Instr.launch h pd a
     let u := v.charge (needLaunch (2 * a.val) pd)
     let addr := (readSS v.g (2 * a.val)).toNat
     let noRoom := 4 ≤ v.g.pendingL.length ∧ spillRoom u.s v.c = false
     (v.st.actsOnce h = false → Becomes i s v (v.passed 8)) ∧
     (v.st.actsOnce h = true →
       (addr % 128 ≠ 0 → exec i s = .next (u.trapAt 0x06 8 (v.st.acting h) 0 addr)) ∧
       (addr % 128 = 0 → ∀ bs, readSys u.s v.c .load addr 128 = .bytes bs →
         (∀ r, recordFault (recordWords bs) = some r →
           exec i s = .next (u.settled.trapAt 0x18 8 (v.st.acting h) (BitVec.ofNat 32 r) 0)) ∧
         (recordFault (recordWords bs) = none → noRoom → exec i s = .next (u.settled.trapAt 0x18 8 (v.st.acting h) 9 0)) ∧
         (recordFault (recordWords bs) = none → ¬ noRoom →
           Leaves i s v (v.g.pathRaise 7 s.nextSeq) (v.blocked (.launch pd addr s.nextSeq) 8))))) ∧
   (∀ (s : State) (gid j : Nat) (v : View) (pd : PR) (addr seq since len : Nat) (bs : List Byte), viewOf s gid j 0 0 = some v →
     v.st.wait = some { kind := .launch pd addr seq, since, len } →
     (s.clock < since + 40 ∨ v.launchBehind since = true → exec (.launchAccept gid j) s = .next s) ∧
     (since + 40 ≤ s.clock → v.launchBehind since = false → readSys s v.c .load addr 128 = .bytes bs → recordFault (recordWords bs) = none →
       let st := { v.st.setPredEm pd (decide (4 ≤ v.g.pendingL.length)) with wait := none, pc := v.st.pc + BitVec.ofNat 64 len }
       let grid := fun (o : Origin) => newGrid s.nextSeq v.c.id o (recordWords bs) (v.c.launchSeq % 2 ^ 32)
         (((getGrid s v.g.grid).map (·.prio)).getD 0) v.c.step
       let c := { v.c with launchSeq := v.c.launchSeq + 1 }
       (v.g.pendingL.length < 4 → exec (.launchAccept gid j) s = .next (View.put { v with
         s := { s with nextSeq := s.nextSeq + 1, grids := s.grids ++ [grid (.pendingQueue gid)] }, c, st,
         g := { v.g with pendingL := v.g.pendingL ++ [{ grid := s.nextSeq, seq }], acceptedAt := some s.clock } })) ∧
       (4 ≤ v.g.pendingL.length → spillRoom s v.c = true → exec (.launchAccept gid j) s = .next (spillAppend (View.put { v with
         s := { s with nextSeq := s.nextSeq + 1, grids := s.grids ++ [grid .spill] }, c, st
         g := Group.pathLower { v.g with acceptedAt := some s.clock } 7 seq })
         v.c (recordWords bs)))))) ∧
  ((∀ (s : State) (v : View) (h : Hd) (pd : PR) (a : Fin 256) (x : BSrc) (n : Need),
     n = { port := .ctl, len := x.len, noRegion := true, noRecompute := true,
           sregs := [2 * a.val, 2 * a.val + 1] ++ x.ss .f64, preds := [pd] } →
     Ready s v h n →
     let i := Instr.join h pd a x
     let u := v.charge n
     let addr := (readSS v.g (2 * a.val)).toNat
     let value := match x with
       | .s m => (readSS v.g m.val).toNat
       | _ => (v.wordB x).toNat
     (v.st.actsOnce h = false → Becomes i s v (v.passed x.len)) ∧
     (v.st.actsOnce h = true →
       (addr % 8 ≠ 0 → exec i s = .next (u.trapAt 0x06 x.len (v.st.acting h) 0 addr)) ∧
       (addr % 8 = 0 → ∀ bs, readSys u.s v.c .load addr 8 = .bytes bs →
         (value % 2 ^ 63 ≤ leNat bs % 2 ^ 63 → exec i s = .next (View.put { u with
           s := l1Clear u.s v.g.core
           st := { v.judged x.len pd (leNat bs / 2 ^ 63 % 2 == 1) with wait := none, walked := [], chainFault := none } })) ∧
         (leNat bs % 2 ^ 63 < value % 2 ^ 63 → Becomes i s v (v.yields (.join pd addr value) x.len))))) ∧
   (∀ (s : State) (gid j : Nat) (v : View) (pd : PR) (addr value since len : Nat) (bs : List Byte), viewOf s gid j 0 0 = some v →
     v.g.state = .resident → v.st.wait = some { kind := .join pd addr value, since, len } → readSys s v.c .load addr 8 = .bytes bs →
     (leNat bs % 2 ^ 63 < value % 2 ^ 63 → exec (.joinComplete gid j) s = .next s) ∧
     (value % 2 ^ 63 ≤ leNat bs % 2 ^ 63 → exec (.joinComplete gid j) s = .next (View.put { v with
       s := l1Clear s v.g.core
       st := { v.st.setPredEm pd (leNat bs / 2 ^ 63 % 2 == 1) with wait := none, pc := v.st.pc + BitVec.ofNat 64 len } }))))

/-! ### Queues II: copies and collectives -/

/-- COPY and COPYG: a descriptor that breaks R353 raises QUEUE_FAULT with the lowest reason it breaks; with 16 copies in its
channel, or once the Capstan has issued in the clock, nothing happens yet; else the copy joins its channel's queue and raises the
channel's path counter (R349 to R353, R358, R417). The copy at the head of a channel starts once its issuer's earlier accesses have been
performed. One that has started moves its bytes and completes; one that meets an error stops, its completion recording the error; at
completion it leaves the channel, its path counter falls, and WSTAT keeps the first error (R314, R352, R354, R355). A path 6 copy that
has sent its rows completes when the other device reports, with an error where it refused one; a write that another device sends is
refused outside the context's fabric window (R357). The model's choices: the bytes that a copy has not performed by then are performed
in its completion event (log 51), and of several errors the first in the order of R352 is recorded (log 53). -/
def Obligations.Copies : Prop :=
  (∀ (s : State) (v : View) (h : Hd) (path : Fin 8) (a : Fin 128) (isG : Bool), Ready s v h (needCopy (8 * a.val)) →
     let i := if isG then Instr.copyg h path a else Instr.copy h path a
     let u := v.charge (needCopy (8 * a.val))
     let b := 8 * a.val
     let args : CopyArgs := { g := isG, path := path.val, dst := (readSS v.g b).toNat, src := (readSS v.g (b + 2)).toNat,
                              len := (readS v.g (b + 4)).toNat, flags := readS v.g (b + 5), shape := readSS v.g (b + 6) }
     let ch := if args.flags.getLsbD 1 then 1 else 0
     let full := 16 ≤ ((getCore s v.g.core).chan ch).length ∨ 4095 ≤ v.g.pathCount (3 + ch) ∨ v.capIssued = true
     (v.st.actsOnce h = false → Becomes i s v (v.passed 8)) ∧
     (v.st.actsOnce h = true → ∀ r, args.fault v.g = some r →
       exec i s = .next (u.trapAt 0x18 8 (v.st.acting h) (BitVec.ofNat 32 r) 0)) ∧
     (v.st.actsOnce h = true → args.fault v.g = none →
       (full → exec i s = .next s) ∧
       (¬ full → ∃ t w, exec i s = .next t ∧ viewOf t v.g.gid v.j v.iw0 v.iw1 = some w ∧ w.st = v.passed 8 ∧
         w.g = (v.g.putStrand v.j (v.passed 8)).pathRaise (3 + ch) s.nextSeq ∧ t.mem = s.mem ∧
         (∀ k, k ≠ v.g.gid → getGroup t k = getGroup s k) ∧
         (getCore t v.g.core).chan ch = (getCore s v.g.core).chan ch ++ [{
           seq := s.nextSeq, gid := v.g.gid, g := isG, path := path.val, dst := args.dst, src := args.src, len := args.len,
           shape := args.shape, flags := args.flags, issuer := .strand v.g.gid v.j, upto := s.nextSeq }] ∧
         (getCore t v.g.core).chan (1 - ch) = (getCore s v.g.core).chan (1 - ch)))) ∧
  (∀ (s : State) (core : Nat) (ch : Fin 2) (k : Copy) (rest : List Copy) (g : Group) (c : Ctx),
     (getCore s core).chan ch.val = k :: rest → getGroup s k.gid = some g → getCtx s g.ctx = some c →
     (∀ x ∈ rest, x.seq ≠ k.seq) →
     (k.started = false →
       ((∀ e ∈ accOf g k.issuer, k.upto ≤ e.seq) → ∃ t, exec (.windlassCopyStart core ch.val) s = .next t ∧
         (getCore t core).chan ch.val = { k with started := true } :: rest ∧ t.groups = s.groups ∧ t.mem = s.mem) ∧
       ((∃ e ∈ accOf g k.issuer, e.seq < k.upto) → exec (.windlassCopyStart core ch.val) s = .next s) ∧
       exec (.windlassCopyComplete core ch.val) s = .next s) ∧
     (k.started = true → k.fail = none → k.path ≠ 6 →
       ((∀ m ∈ copyMeets s c g k, ∃ b pa, m = (.byte b, .place pa)) →
         exec (.windlassCopyComplete core ch.val) s = .next (finishCopy (copyApply s c g k false) core ch.val k)) ∧
       (∀ cause reason addr, firstStop (copyMeets s c g k) = some (.fail cause reason addr) →
         exec (.windlassCopyComplete core ch.val) s =
           .next (finishCopy (meetFailed (copyApply s c g k true) c g k cause addr) core ch.val { k with fail := some (cause, reason, addr) }))) ∧
     (k.flags.getLsbD 2 = false → ∃ t g', finishCopy s core ch.val k = t ∧ (getCore t core).chan ch.val = rest ∧ getGroup t k.gid = some g' ∧
       g'.paths = (g.pathLower (3 + ch.val) k.seq).paths ∧ t.mem = s.mem ∧
       (∀ old, old = (if ch = 0 then g.wstat0 else g.wstat1) →
         (if ch = 0 then g'.wstat0 else g'.wstat1) = match k.fail with
           | some (cause, reason, addr) => if old.getLsbD 0 then old
               else BitVec.ofNat 64 (1 + cause % 16 * 2 + reason % 8 * 2 ^ 5 + addr % 2 ^ 56 * 2 ^ 8)
           | none => old))) ∧
  ((∀ (s : State) (core ch : Nat) (k : Copy) (refused : Option Nat), headCopy s core ch = some k → k.started = true → k.path = 6 →
     k.sentOut = true →
     exec (.fabricWriteReport core ch refused) s = .next (finishCopy s core ch { k with fail := refused.map fun a => (6, 0, a) })) ∧
   (∀ (s : State) (tenant fjob va : Nat) (bytes : List Byte),
     let reply := fun (s : State) (no : Bool) => { s with outbox := s.outbox ++ [.fabricReply tenant fjob va no] }
     (fabricCtx s tenant fjob = none → exec (.fabricWriteReceive tenant fjob va bytes) s = .next (reply s true)) ∧
     (∀ c, fabricCtx s tenant fjob = some c →
       let base := sysNat s c (c.trapvec + 0x80) 8
       let size := sysNat s c (c.trapvec + 0x88) 8
       (va < base ∨ base + size < va + bytes.length →
         exec (.fabricWriteReceive tenant fjob va bytes) s = .next (reply s true)) ∧
       (base ≤ va → va + bytes.length ≤ base + size → ∀ pas : List Nat, pas.length = bytes.length → Memory.wf s.mem = true → pas.Nodup →
         (∀ l ∈ s.l2, l.tile = none) →
         (∀ n pa, pas[n]? = some pa → (∃ pl, checkSys s c (.copyDst false) (va + n) 1 = .ok pa pl) ∧ isPoisoned s pa = false) →
         ∃ t, exec (.fabricWriteReceive tenant fjob va bytes) s = .next t ∧ t.outbox = s.outbox ++ [.fabricReply tenant fjob va false] ∧
           (∀ (n : Nat) (pa : Nat) (b : Byte), pas[n]? = some pa → bytes[n]? = some b → readByte t.mem pa = b) ∧
           ∀ a, a ∉ pas → readByte t.mem a = readByte s.mem a))))

/-- A copy into global memory that has performed no byte yet, whose places are distinct and none a place it reads, moves every byte to
its place and changes no other byte of memory, where no derived tile is in the L2 to be displaced (R352). -/
def Obligations.CopyMovesBytes : Prop :=
  ∀ (s : State) (c : Ctx) (g : Group) (k : Copy) (l : List (Byte × Nat)), Memory.wf s.mem = true → dstShared k.path = false →
    k.did = [] → (∀ x ∈ s.l2, x.tile = none) → copyMeets s c g k = l.map (fun e => (CopyMeet.byte e.1, CopyMeet.place e.2)) → (l.map (·.2)).Nodup →
    (∀ e ∈ l, e.2 ∉ copySources s c g k) →
    (∀ e ∈ l, readByte (copyApply s c g k false).mem e.2 = e.1) ∧
    (∀ a, a ∉ l.map (·.2) → readByte (copyApply s c g k false).mem a = readByte s.mem a)

/-- COLL: a descriptor that breaks R366 raises QUEUE_FAULT 15; with 16 collectives of the member PENDING nothing happens yet; else
it takes the next number, Sd gets the ticket after 2 clocks, the strand's next instruction issues then, and the collective is
PENDING, or ABORTED at once in an aborted generation (R361, R364 to R366); its recorded status waits where the page of its status
word is absent. TKSTAT returns a ticket's status: STALE for another generation, UNKNOWN for one that is not of the last 64, else
PENDING or the status recorded; anything but PENDING is an acquire at device scope; TKSTAT.wait waits while it is PENDING (R367,
R369). The model's choices: the clock in which its pair then lands (log 122), that a collective whose status word lies on an absent
page stays PENDING (log 130), and that of several tackles at one address the first registered is read (log 55). -/
def Obligations.Collectives : Prop :=
  (∀ (s : State) (v : View) (h : Hd) (f : Fmt) (kind : CollKind) (sd m : SR) (a : Fin 256) (n : Need) (bs : List Byte),
     n = { port := .mem, len := 8, coll := true, sregs := [sd.val, 2 * a.val, 2 * a.val + 1, m.val, m.val + 1], path := some 5,
           noRegion := true, noRecompute := true, drained := true } → Ready s v h n →
     let i := Instr.coll h f kind sd a m
     let u := v.charge n
     let at_ := (readSS v.g (2 * a.val)).toNat
     let member := collMember s v.c.id (v.g.core / 128) (readSS v.g m.val).toNat kind f (collDesc bs)
     (v.st.actsOnce h = false → Becomes i s v (v.passed 8)) ∧
     (v.st.actsOnce h = true →
       (at_ % 64 ≠ 0 → exec i s = .next (u.trapAt 0x06 8 (v.st.acting h) 0 at_)) ∧
       (at_ % 64 = 0 → readSys s v.c .load at_ 64 = .bytes bs →
         (member = none → exec i s = .next (u.trapAt 0x18 8 (v.st.acting h) 15 0)) ∧
         (∀ t x, member = some (t, x) →
           (16 ≤ x.pending.length → exec i s = .next v.put) ∧
           (x.pending.length < 16 → ∃ r w y, exec i s = .next r ∧ viewOf r v.g.gid v.j v.iw0 v.iw1 = some w ∧
             w.st = { v.passed 8 with
               readyAt := s.clock + 2, walked := [], chainFault := none,
               flights := v.st.flights ++ [{ seq := s.nextSeq + 1, issuedAt := s.clock, landAt := s.clock + 2,
                                             s := [(sd.val, BitVec.ofNat 32 (x.gen % 65536 * 65536 + x.nextseq))] }] } ∧
             r.tackles[t]? = some y ∧ y.nextseq = (x.nextseq + 1) % 65536 ∧ y.gen = x.gen ∧
             (x.aborted = false →
               (∀ m ∈ x.early, m.seq = x.nextseq → m.kind = kind ∧ m.fmt = f ∧ m.count = (collDesc bs).count ∧
                 m.rop = (collDesc bs).rop ∧ m.root = (collDesc bs).root) →
               w.g.paths = (v.g.pathRaise 5 s.nextSeq).paths ∧ r.mem = s.mem ∧
               ∃ c, y.pending = x.pending ++ [c] ∧ c.seq = x.nextseq ∧ c.gid = v.g.gid ∧ c.kind = kind ∧ c.fmt = f ∧
                 c.src = (collDesc bs).src ∧ c.dst = (collDesc bs).dst ∧ c.count = (collDesc bs).count) ∧
             (x.aborted = true → (∀ p ∈ x.pending, p.opseq ≠ s.nextSeq) →
               let away := ∃ rank cause extra va, checkSys v.s v.c .store (collDesc bs).stat 8 = .fail rank cause extra va ∧
                 awayRank rank = true
               ((collDesc bs).stat = 0 ∨ ¬ away →
                 y.pending = x.pending ∧ aget y.status x.nextseq = some (statusWord 2 x.nextseq x.gen x.crank x.ecode)) ∧
               ((collDesc bs).stat ≠ 0 → away → v.c.ended = none →
                 ∃ c, y.pending = x.pending ++ [c] ∧ c.seq = x.nextseq ∧ c.fin = some (2, x.crank, x.ecode)))))))) ∧
  ((∀ (x : Tackle) (ticket : Word),
     let seq := ticket.toNat % 65536
     let gen := ticket.toNat / 65536
     let recent := (x.nextseq + 65536 - seq - 1) % 65536 < 64
     (gen ≠ x.gen % 65536 → tkStatus x ticket = BitVec.ofNat 64 (6 + seq * 2 ^ 8 + gen * 2 ^ 24)) ∧
     (gen = x.gen % 65536 → ¬ recent → tkStatus x ticket = BitVec.ofNat 64 (5 + seq * 2 ^ 8 + gen * 2 ^ 24)) ∧
     (gen = x.gen % 65536 → recent →
       let pending := ∃ p ∈ x.pending, p.seq = seq ∧ p.gen = x.gen
       (pending → tkStatus x ticket = BitVec.ofNat 64 (0 + seq * 2 ^ 8 + gen * 2 ^ 24)) ∧
       (¬ pending → ∀ w, aget x.status seq = some w → tkStatus x ticket = w))) ∧
   (∀ (s : State) (v : View) (h : Hd) (sd : SR) (a : Fin 256) (b : BSrc) (wait : Bool) (n : Need),
     n = needTkstat sd.val (2 * a.val) b → Ready s v h n →
     let i := if wait then Instr.tkstatWait h sd a b else Instr.tkstat h sd a b
     let u := v.charge n
     let found := (tacklesAt u.s v.c.id (v.g.core / 128) (readSS v.g (2 * a.val)).toNat).head?
     (v.st.actsOnce h = false → Becomes i s v (v.passed b.len)) ∧
     (v.st.actsOnce h = true →
       (found = none → exec i s = .next (u.trapAt 0x18 b.len (v.st.acting h) 15 0)) ∧
       (∀ t x, found = some (t, x) →
         let w := tkStatus x (v.wordB b)
         (wait = true → w.toNat % 16 = 0 → Becomes i s v (v.yields (.tkstat sd.val t (v.wordB b)) b.len)) ∧
         (wait = false ∨ w.toNat % 16 ≠ 0 → exec i s = .next (View.put { u with
           s := { (if w.toNat % 16 = 0 then u.s else l1Clear u.s v.g.core) with nextSeq := s.nextSeq + 1 },
           st := { v.passed b.len with
             wait := none,
             flights := v.st.flights ++ [{ seq := s.nextSeq, issuedAt := s.clock, landAt := s.clock + 2,
                                           s := [(sd.val, w.extractLsb' 0 32), (sd.val + 1, w.extractLsb' 32 32)] }] } }))))) ∧
   (∀ (s : State) (gid j : Nat) (v : View) (sd t since len : Nat) (ticket : Word) (x : Tackle), viewOf s gid j 0 0 = some v →
     v.st.wait = some { kind := .tkstat sd t ticket, since, len } → s.tackles[t]? = some x →
     ((tkStatus x ticket).toNat % 16 = 0 ∨ v.g.state ≠ .resident → exec (.tkstatWaitComplete gid j) s = .next s) ∧
     ((tkStatus x ticket).toNat % 16 ≠ 0 → v.g.state = .resident → ∃ r w, exec (.tkstatWaitComplete gid j) s = .next r ∧ viewOf r gid j 0 0 = some w ∧
       w.st.wait = none ∧ w.st.pc = v.st.pc + BitVec.ofNat 64 len ∧ (getCore r v.g.core).l1 = [] ∧
       w.st.flights = v.st.flights ++ [{ seq := s.nextSeq, issuedAt := since, landAt := max (since + 2) (s.clock + 1),
                                         s := [(sd, (tkStatus x ticket).extractLsb' 0 32),
                                               (sd + 1, (tkStatus x ticket).extractLsb' 32 32)] }])))

/-- TKREFORM with a good list ends a generation that is ACTIVE with a collective PENDING, begins the next with the new members, sends
REFORM and waits; with a bad list, or for a tackle that is not registered, it raises QUEUE_FAULT 15. It completes once every other member's REFORM has arrived and agrees, Pd false, or once the interval has passed, Pd true; a new generation that an ABORT has
ended meanwhile stays ABORTED (R367, R370). That a reform which fails leaves its own rank as CRANK and 6 as ECODE, and that the address of
the list is not checked for alignment, are the model's choices (log 56). -/
def Obligations.TackleReform : Prop :=
  (∀ (s : State) (v : View) (h : Hd) (pd : PR) (a : Fin 256) (m : SR) (n : Need) (hdr list : List Byte) (t : Nat) (x : Tackle),
    n = needTkreform (2 * a.val) m.val pd → Ready s v h n →
    (v.st.actsOnce h = false → Becomes (.tkreform h pd a m) s v (v.passed 8)) ∧ (v.st.actsOnce h = true →
    let i := Instr.tkreform h pd a m
    let u := v.charge n
    let read := fun (off : Nat) (bs : List Byte) => ∀ (k : Nat) (b : Byte), bs[k]? = some b →
      readSys u.s v.c .load (add64 (readSS v.g m.val).toNat (off + k)) 1 = .bytes [b]
    let found := (tacklesAt u.s v.c.id (v.g.core / 128) (readSS v.g (2 * a.val)).toNat).head?
    (found = none → exec i s = .next (u.trapAt 0x18 8 (v.st.acting h) 15 0)) ∧
    (found = some (t, x) → hdr.length = 64 → read 0 hdr → ∀ nmem, nmem = leNat (hdr.take 8) / 2 ^ 48 % 2 ^ 13 →
      (nmem = 0 ∨ x.cap < nmem → exec i s = .next (u.trapAt 0x18 8 (v.st.acting h) 15 0)) ∧
      (nmem ≠ 0 → nmem ≤ x.cap → list.length = 8 * nmem → read 64 list → rankIn x (listEntries list nmem) = none →
        exec i s = .next (u.trapAt 0x18 8 (v.st.acting h) 15 0)) ∧
      (nmem ≠ 0 → nmem ≤ x.cap → list.length = 8 * nmem → read 64 list → ∀ rank, rankIn x (listEntries list nmem) = some rank →
        ∃ r w y, exec i s = .next r ∧ viewOf r v.g.gid v.j v.iw0 v.iw1 = some w ∧ w.st.pc = v.st.pc ∧
          w.st.wait = some { kind := .tkreform pd t, since := s.clock, len := 8 } ∧ r.tackles[t]? = some y ∧
          y.gen = (x.gen + 1) % 65536 ∧ y.nmem = nmem ∧ y.entries = listEntries list nmem ∧ y.rank = rank ∧ y.nextseq = 0 ∧
          (∀ p ∈ y.pending, p.fin ≠ none) ∧ y.status = [] ∧
          r.outbox = s.outbox ++ (if x.aborted = false ∧ x.pending ≠ [] then [.abort x.tkid x.gen x.rank 6] else []) ++
            [.reform x.tkid ((x.gen + 1) % 65536) rank (reformHash nmem (listEntries list nmem))])))) ∧
  (∀ (s : State) (gid j : Nat) (v : View) (pd : PR) (t since len : Nat) (x : Tackle), viewOf s gid j 0 0 = some v →
    v.st.wait = some { kind := .tkreform pd t, since, len } → s.tackles[t]? = some x →
    let others := (List.range x.nmem).filter (· != x.rank)
    let here := ∀ r ∈ others, ∃ e ∈ x.arrived, e.1 = r
    let agree := ∀ r ∈ others, ∃ e ∈ x.arrived, e.1 = r ∧ e.2 = reformHash x.nmem x.entries
    let late := x.reformSince.getD 0 + v.c.tktimeout.toNat * 1024 < s.clock
    let after := fun (ok : Bool) => exec (.tkreformComplete gid j) s = .next (View.put { v with
      s := putTackle s t { x with reformSince := none, arrived := [], aborted := !ok, forwarded := false,
                                  crank := if ok then 0 else if x.forwarded then x.crank else x.rank,
                                  ecode := if ok then 0 else if x.forwarded then x.ecode else 6 },
      st := { v.st.setPredEm pd (!ok) with wait := none, pc := v.st.pc + BitVec.ofNat 64 len } })
    (¬ here → ¬ late → exec (.tkreformComplete gid j) s = .next s) ∧ (agree → ¬ late → x.forwarded = false → after true) ∧
    (late ∨ (here ∧ (¬ agree ∨ x.forwarded = true)) → after false))

/-- A message of the current generation joins the collective it belongs to, is kept where its collective has not been issued yet,
and ends the generation where it disagrees; the progress timer and an ABORT end it too: every PENDING collective is then ABORTED, and
ABORT is sent once; a message or an ABORT of a generation that has ended, or of another, is discarded, and while a TKREFORM waits it is
the new generation that counts (R361, R367, R370). That an ended collective waits, PENDING, for the page of its status word is the
model's reading (log 130). -/
def Obligations.GenerationEnds : Prop :=
  ∀ (s : State) (t : Nat) (x : Tackle) (cx : Ctx), s.tackles[t]? = some x → getCtx s x.ctx = some cx →
    let sane := (∀ p ∈ x.pending, p.gen = x.gen ∧ p.fin = none) ∧ (x.pending.map (·.opseq)).Nodup ∧ (x.pending.map (·.seq)).Nodup
    let settled := fun (y : Tackle) (p : Coll) (state crank ecode : Nat) =>
      aget y.status p.seq = some (statusWord state p.seq x.gen crank ecode) ∨
      ∃ q ∈ y.pending, q.opseq = p.opseq ∧ q.fin = some (state, crank, ecode)
    let ended := fun (e : Instr) (state crank ecode : Nat) (first : Coll → Prop) => ∃ r y, exec e s = .next r ∧
      r.tackles[t]? = some y ∧ y.aborted = true ∧ y.forwarded = true ∧ y.crank = crank ∧ y.ecode = ecode ∧ y.gen = x.gen ∧
      (∀ p ∈ y.pending, p.fin ≠ none) ∧ r.outbox = s.outbox ++ [.abort x.tkid x.gen crank ecode] ∧
      (sane → ∀ p ∈ x.pending, (first p → settled y p state crank ecode) ∧ (¬ first p → settled y p 2 crank ecode))
    let ceased := if x.reformSince = none then x.aborted else x.forwarded
    (∀ m : CollMsg,
      (ceased = true ∨ m.gen ≠ x.gen ∨ x.nmem ≤ m.rank → exec (.collDataReceive t m) s = .next s) ∧
      (ceased = false → m.gen = x.gen → m.rank < x.nmem →
        let mine := fun (p : Coll) => p.seq == m.seq && p.gen == m.gen && p.fin.isNone
        (∀ c, x.pending.find? mine = some c →
          let agrees := m.kind = c.kind ∧ m.fmt = c.fmt ∧ m.count = c.count ∧ m.rop = c.rop ∧ m.root = c.root
          (agrees → (∃ o ∈ c.msgs, o.rank = m.rank) → exec (.collDataReceive t m) s = .next s) ∧
          (agrees → (∀ o ∈ c.msgs, o.rank ≠ m.rank) → exec (.collDataReceive t m) s = .next (putTackle s t { x with
            pending := x.pending.map fun p =>
              if p.opseq = c.opseq then { c with msgs := c.msgs ++ [m], lastAt := s.clock } else p })) ∧
          (¬ agrees → ended (.collDataReceive t m) 4 x.rank 4 fun p => p = c)) ∧
        (x.pending.find? mine = none →
          ((m.seq + 65536 - x.nextseq) % 65536 < 32768 →
            exec (.collDataReceive t m) s = .next (putTackle s t { x with early := x.early ++ [m] })) ∧
          (32768 ≤ (m.seq + 65536 - x.nextseq) % 65536 → exec (.collDataReceive t m) s = .next s)))) ∧
    (let oldest := x.pending.find? fun p => p.fin.isNone
     (x.aborted = false → ∀ p, oldest = some p → p.lastAt + cx.tktimeout.toNat * 1024 ≤ s.clock →
       ended (.collTimeout t) 2 x.rank 1 fun _ => True) ∧
     (x.aborted = true ∨ oldest = none ∨ (∃ p, oldest = some p ∧ s.clock < p.lastAt + cx.tktimeout.toNat * 1024) →
       exec (.collTimeout t) s = .next s)) ∧
    (∀ gen crank ecode,
      (ceased = false → gen = x.gen → ended (.hawserAbortReceive t gen crank ecode) 2 crank 2 fun _ => True) ∧
      (ceased = true ∨ gen ≠ x.gen → exec (.hawserAbortReceive t gen crank ecode) s = .next s))

/-- The engine reads a member's source and sends it to the members, and once every message it needs is there writes the result
at the destination and records DONE; REFORMs are counted or held for an interval; links fail and train (R361 to R363, R367,
R370, R457, R459). -/
def Obligations.CollectiveEngine : Prop :=
  (∀ (s : State) (t : Nat) (x : Tackle) (cx : Ctx) (c : Coll), s.tackles[t]? = some x → getCtx s x.ctx = some cx →
    (x.pending.find? fun p => p.seq == c.seq) = some c → x.aborted = false → c.failed = false → c.fin = none →
    (c.sent = false → ∀ bs : List Byte, bs.length = collSrcLen c x.nmem →
      (∀ (n : Nat) (b : Byte), bs[n]? = some b → readSys s cx (.copySrc false) (add64 c.src n) 1 = .bytes [b]) →
      let m : CollMsg := { gen := x.gen, seq := c.seq, rank := c.rank, kind := c.kind, fmt := c.fmt, count := c.count,
                           rop := c.rop, root := c.root, bytes := bs }
      ∃ r y, exec (.collComplete t c.seq) s = .next r ∧ r.outbox = s.outbox ++ [.collData x.tkid m] ∧ r.tackles[t]? = some y ∧
        y.pending = x.pending.map fun p => if p.opseq = c.opseq then { c with sent := true, msgs := c.msgs ++ [m], lastAt := s.clock } else p) ∧
    (c.sent = true → (∃ r ∈ collNeeds c x.nmem, ∀ m ∈ c.msgs, m.rank ≠ r) → exec (.collComplete t c.seq) s = .next s) ∧
    (c.sent = true → (∀ r ∈ collNeeds c x.nmem, ∃ m ∈ c.msgs, m.rank = r) → c.stat = 0 → c.gen = x.gen → Memory.wf s.mem = true →
      (∀ l ∈ s.l2, l.tile = none) →
      ∀ pas : List Nat, pas.length = (collResult c x.nmem).length → pas.Nodup →
        (∀ (n pa : Nat), pas[n]? = some pa → (∃ pl, checkSys s cx (.copyDst false) (add64 c.dst n) 1 = .ok pa pl) ∧ isPoisoned s pa = false) →
        (∀ n, n < pas.length → overlaps (c.dst + n) 1 c.src (collSrcLen c x.nmem) = false) →
        ∃ r y, exec (.collComplete t c.seq) s = .next r ∧ r.tackles[t]? = some y ∧
          aget y.status c.seq = some (statusWord 1 c.seq x.gen 0 0) ∧ (∀ p ∈ y.pending, p.opseq ≠ c.opseq) ∧
          (∀ (n pa : Nat) (b : Byte), pas[n]? = some pa → (collResult c x.nmem)[n]? = some b → readByte r.mem pa = b) ∧
          ∀ a, a ∉ pas → readByte r.mem a = readByte s.mem a)) ∧
  (∀ (s : State) (t gen rank hash : Nat) (x : Tackle), s.tackles[t]? = some x →
    (x.reformSince ≠ none → gen = x.gen → exec (.hawserReformReceive t gen rank hash) s =
      .next (putTackle s t { x with arrived := (x.arrived.filter fun e => e.1 != rank) ++ [(rank, hash)] })) ∧
    (x.reformSince = none ∨ gen ≠ x.gen →
      let ahead := (gen + 65536 - x.gen) % 65536
      (1 ≤ ahead → ahead < 32768 → exec (.hawserReformReceive t gen rank hash) s =
        .next (putTackle s t { x with held := x.held ++ [(gen, rank, hash, s.clock)] })) ∧
      (ahead = 0 ∨ 32768 ≤ ahead → exec (.hawserReformReceive t gen rank hash) s = .next s)) ∧
    (∀ c, getCtx s x.ctx = some c → exec (.heldReformExpiry t) s =
      .next (putTackle s t { x with held := x.held.filter fun e => decide (s.clock ≤ e.2.2.2 + c.tktimeout.toNat * 1024) }))) ∧
  (∀ (s : State) (port : Fin 8), exec (.hawserLinkFail port.val) s = .next { s with hwlink := s.hwlink.set port.val 4 } ∧
    exec (.hawserLinkTrained port.val) s = .next { s with hwlink := s.hwlink.set port.val 2 })

/-! ### Registers IV and V: the Capstan -/

/-- An S slot computes on 64-bit A registers modulo 2^64, branches, loops, calls and halts, and the next bundle is the one its
control operation names (R192, R193, R194, R195). -/
def Obligations.ScalarSlot : Prop :=
  ∀ (s : State) (v : CapView) (b : Bundle), BundleReady s v b 0 →
    let x := v.k.readA b.s.a.toNat
    let imm := b.s.imm.signExtend 64
    let y := if b.s.i = 1 then imm else v.k.readA b.s.b.toNat
    let next := nextBundle v.k.cpc
    let target := bundleFrom v.k.cpc b.s.imm.toInt
    let d := fun (r : DWord) => Commits b s v next (v.k.writeA b.s.d.toNat r) v.g
    let n := b.s.d.toNat % 4
    let go := fun (taken : Prop) => (taken → Commits b s v target v.k v.g) ∧ (¬ taken → Commits b s v next v.k v.g)
    (b.s.op = 0 → d (x + y)) ∧ (b.s.op = 1 → d (x - y)) ∧ (b.s.op = 2 → d (x * y)) ∧ (b.s.op = 3 → d (x &&& y)) ∧
    (b.s.op = 4 → d (x ||| y)) ∧ (b.s.op = 5 → d (x ^^^ y)) ∧
    (b.s.op = 6 → d (if y.toNat < 64 then x <<< y.toNat else 0)) ∧ (b.s.op = 7 → d (if y.toNat < 64 then x >>> y.toNat else 0)) ∧
    (b.s.op = 8 → d (if y.toNat < 64 then x.sshiftRight y.toNat else if x.msb then -1 else 0)) ∧
    (b.s.op = 9 → d (if b.s.sub = 0 then imm else if b.s.sub = 1 then b.s.imm.zeroExtend 64 else b.s.imm ++ (0 : Word))) ∧
    (b.s.op = 10 → d (if (match b.s.sub.toNat with
        | 0 => decide (x = y)
        | 1 => decide (x ≠ y)
        | 2 => decide (x.toInt < y.toInt)
        | 3 => decide (x.toInt ≤ y.toInt)
        | 4 => decide (y.toInt < x.toInt)
        | 5 => decide (y.toInt ≤ x.toInt)
        | 6 => decide (x.toNat < y.toNat)
        | _ => decide (y.toNat ≤ x.toNat)) then 1 else 0)) ∧
    (b.s.op = 11 → (b.s.sub = 0 → go True) ∧ (b.s.sub = 1 → go (x = 0)) ∧ (b.s.sub = 2 → go (x ≠ 0)) ∧ (b.s.sub = 3 → go (x.toInt < 0)) ∧
      (b.s.sub = 4 → go (0 ≤ x.toInt)) ∧ (b.s.sub = 5 → go (0 < x.toInt)) ∧ (b.s.sub = 6 → go (x.toInt ≤ 0))) ∧
    (b.s.op = 12 → b.s.sub = 1 → Commits b s v next { v.k with l := v.k.l.setIfInBounds n b.s.imm } v.g) ∧
    (b.s.op = 12 → b.s.sub = 0 → ∀ l : Word, v.k.l[n]? = some l →
      (l = 0 → Commits b s v next v.k v.g) ∧
      (l ≠ 0 → Commits b s v (if l = 1 then next else target) { v.k with l := v.k.l.setIfInBounds n (l - 1) } v.g)) ∧
    (b.s.op = 13 → v.k.rstk.length < 8 → Commits b s v (slicePc b.s.imm.toNat) { v.k with rstk := v.k.rstk ++ [next] } v.g) ∧
    (b.s.op = 14 → ∀ (r : DWord) (rest : List DWord), v.k.rstk = rest ++ [r] → Commits b s v r { v.k with rstk := rest } v.g) ∧
    (b.s.op = 15 → Commits b s v next { v.k with halted := true, haltPc := v.k.cpc } v.g) ∧
    (b.s.op = 16 →
      (b.s.imm = 0x16 → d (BitVec.ofNat 64 v.c.tagbase)) ∧ (b.s.imm = 0x30 → d v.c.step) ∧
      (b.s.imm = 0x32 → d (BitVec.ofNat 64 v.g.vcyc)) ∧ (b.s.imm = 0x52 → d v.k.cpc)) ∧
    (b.s.op = 17 → b.s.imm = 0x50 →
      Commits b s v next { v.k with mth := x.toNat / 2 ^ 8 % 2 ^ 5, mse := x.toNat / 2 ^ 13 % 2 == 1 } v.g)

/-- A bundle of one slot, while no result is in flight. A V slot puts words of its lanes in flight to one tile register: VADD, VMUL,
VFMA, VMAX, VMIN, VSCALE and VEXP2 on F32 numbers, VBCAST, VSEL and VCLR as R200 and R203 say, VCVT element by element, with what
saturated and what became zero counted for QSAT and QUND; an M slot puts its operation in the engine's queue, with the operands as they
are then; TLD, TLDS, SLD, TST, TSTS, TSTD, SST, ZLD, XLD and PREFR queue their accesses; COPY and COPYG raise their channel's counter; a
Y slot's GIVE, TAKE of a tile on offer, arrival, CLWAIT, WAITP, MARK, FENCE and TICK do what their strand forms do (R62, R197 to R204,
R212, R217, R220 to R222, R227, R236, R292 to R298, R359, R415, R418, R421 to R424, R427). In a bundle of several slots each commits, in
the order S, V0, V1, M, L, W, K, C, Y, in the state that those before it left: an S slot's register and target are there for the Y slot,
and a W slot waits for the engine to release a tile that the M slot of its bundle writes (R62, R223). -/
def Obligations.BundleSlots : Prop :=
  (∀ (s : State) (v : CapView) (b : Bundle), v.flying = [] → v.g.badWords = [] →
    let next := nextBundle v.k.cpc
    let u := v.begun b
    let own := fun (l : List Nat) => ∀ t ∈ l, v.g.ownerOf t = .capstan
    let blank : Exposed := { seq := s.nextSeq + 1, fixed := b.ver == 0, issued := v.g.vcyc, bound := 0, minAt := s.clock + 6,
                             ready := false }
    let bound := fun (lb cycles : Nat) => v.g.vcyc + if b.ver = 0 then cycles else lb + 1
    let row := fun (t r : Nat) => (List.range 16).flatMap fun k => leBytes 4 (tileWord v.g t (r / 2) (16 * (r % 2) + k)).1.toNat
    let tags := fun (t n : Nat) => (tileWord v.g t (n / 32) (n % 32)).2
    let spread := fun (a lay r : Nat) => (a + r * (64 * 2 ^ (lay / 2))) % 2 ^ 64
    let sends := fun (seq : Nat) (kind : AccKind) (isLd isSt : Bool) (ps : List Part) (path : Nat) (k : Capstan) =>
      Commits b s v next { k with walked := [], chainFault := none, acc := v.k.acc ++ [v.queued seq kind isLd isSt ps (some path)] }
        (v.g.pathRaise path seq)
    (BundleReady s v b 1 → own (slotTiles b 1).1 → own (slotTiles b 1).2 →
      let first := 8 * b.v0.lg.toNat
      let op := b.v0.op.toNat
      ∃ (lanes : Word) (ws : List VWrite) (sat und : Nat),
        (∀ i, i < 32 → lanes.getLsbD i = (decide (first ≤ i) && decide (i < first + 8 * 2 ^ b.v0.width.toNat))) ∧
        Commits b s v next { v.k with res := [{ blank with
          bound := bound b.v0.lb.toNat 2, minAt := s.clock + (if op = 7 then 8 else if op = 8 ∨ op = 9 then 6 else 4), ready := true,
          tile := some b.v0.dtile.toNat, regs := 2 ^ b.v0.dreg.toNat, lanes, v := ws, qsat := sat, qund := und }] } v.g ∧
        ws.map (fun w => (w.tile, w.reg, w.lane)) = (maskLanes lanes).map (fun i => (b.v0.dtile.toNat, b.v0.dreg.toNat, i)) ∧
        (op ≠ 6 → sat = 0 ∧ und = 0) ∧
        (op ≠ 6 → ∀ w ∈ ws,
          let at_ := tileWord v.g b.v0.atile.toNat b.v0.areg.toNat w.lane
          let a := at_.1
          let c := (tileWord v.g b.v0.btile.toNat b.v0.breg.toNat w.lane).1
          let dt := tileWord v.g b.v0.dtile.toNat b.v0.dreg.toNat w.lane
          let d := dt.1
          let num := fun (x : Word) => numOf .f32 x.toNat
          let scale := num ((v.k.readA b.v0.sa.toNat).extractLsb' 0 32)
          let mode : RMode := if b.v0.sub = 0 then .rn else if b.v0.sub = 1 then .rz else if b.v0.sub = 2 then .ru else .rd
          let rounds := fun (r : Machine.Num) => r ≠ .bad → w.word.toNat = (roundTo .f32 r mode false 0).code
          (b.v0.fmt = 0 → (num a).isNan = false → (op = 7 → rounds (Fn.exp2.apply (num a))) ∧
            (op = 5 → scale.isNan = false → rounds ((num a).mul scale)) ∧ ((num c).isNan = false →
            (op = 0 → rounds ((num a).add (mode = .rd) (num c))) ∧ (op = 1 → rounds ((num a).mul (num c))) ∧
            (op = 2 → (num d).isNan = false → rounds (((num a).mul (num c)).add (mode = .rd) (num d))) ∧
            (op = 3 → rounds (if (num a).lt true (num c) then num c else num a)) ∧
            (op = 4 → rounds (if (num c).lt true (num a) then num c else num a)))) ∧
          (op = 10 → w.tag = 0xFF ∧
            w.word = (v.k.readA b.v0.sa.toNat).extractLsb' (if b.v0.sub = 0 then 0 else 32) 32) ∧
          (op = 11 → b.v0.sub = 0 → w.word = (a &&& c) ||| (d &&& ~~~c) ∧
            w.tag = if c = 0xFFFFFFFF then at_.2 else if c = 0 then dt.2 else 0xFF) ∧
          (op = 11 → b.v0.sub = 1 → w.word = (if c = 0 then 0 else a) ∧ w.tag = if c = 0 then 0xFF else at_.2) ∧
          (op = 12 → w.word = 0 ∧ w.tag = 0xFF)) ∧
        (op = 6 → ∀ dst src, vFmt b.v0.fmt.toNat = some dst → vFmt b.v0.sub.toNat = some src →
          let from_ := if src.elems ≤ dst.elems then 0 else b.v0.breg.toNat * dst.elems
          let x := fun (lane n : Nat) => numOf src (elemAt src (tileWord v.g b.v0.atile.toNat (b.v0.areg.toNat + (from_ + n) / src.elems) lane).1.toNat
            ((from_ + n) % src.elems))
          let r := fun (lane n : Nat) => roundTo dst (x lane n) .rn true 0
          let high := fun (lane n : Nat) => if (x lane n).isNan then dst == .fp4 else (r lane n).ovf
          let low := fun (lane n : Nat) => !(x lane n).isNan && (x lane n).isNonzero && (numOf dst (r lane n).code).isZero
          let sum := fun (f : Nat → Nat → Bool) => ((maskLanes lanes).map fun i => ((List.range dst.elems).filter (f i)).length).sum
          (∀ w ∈ ws, ∀ n, n < dst.elems →
            ((x w.lane n).isNan = false → elemAt dst w.word.toNat n = (r w.lane n).code % 2 ^ dst.width) ∧
            (∀ neg kind code, x w.lane n = .nan neg kind code →
              elemAt dst w.word.toNat n = nanTo kind code neg dst ⟨w.lane, 1, originPc v.k.cpc⟩ % 2 ^ dst.width)) ∧
          (dst = .m8 ∨ dst = .fp4 ∨ dst = .e4m3 → sat = sum high ∧ und = sum low) ∧
          (dst ≠ .m8 → dst ≠ .fp4 → dst ≠ .e4m3 → sat = 0 ∧ und = 0))) ∧
    (BundleReady s v b 3 → own (MSlot.tiles b.m).1 → own (MSlot.tiles b.m).2 →
      let occ := if b.m.op = 0 then 8 else if b.m.op = 1 then 128 else 1
      let idle := v.k.eng = [] ∧ (getCore s v.g.core).drain = []
      ∃ weight, Commits b s v next { v.k with eng := v.k.eng ++ [{
        seq := s.nextSeq + 1, bpc := v.k.cpc, started := v.k.eng.isEmpty && (getCore s v.g.core).drain.isEmpty, left := occ, occ := occ,
        relAt := if idle then s.clock + (if b.m.op = 1 then 32 else 2) else 0,
        dtiles := (MSlot.tiles b.m).1, rtiles := (MSlot.tiles b.m).2,
        v := MSlot.results b.m (v.matIn b.m (originPc v.k.cpc)), check := b.m.op != 2 && b.m.fmtA != 10, weight }] } v.g) ∧
    (BundleReady s v b 4 →
      let a := u.k.addr b.l.base.toNat 18 b.l.off.toNat
      let lay := b.l.layout.toNat
      let t := b.l.dtile.toNat
      let res := [{ blank with bound := bound b.l.lb.toNat 4, tile := some t, regs := 255 }]
      (∀ ps, b.l.op = 0 → own [t] → judgeGlobal u.s u.c u.g u.k.acc u.k.walked u.k.chainFault ((List.range 16).flatMap fun r =>
          { lane := r, addr := spread a lay r, len := 64, align := 64, use := .load } ::
            (if lay % 2 = 1 then rowTags u.c .load r (spread a lay r) fun _ => 0 else [])) = .parts ps →
        sends (s.nextSeq + 2) (.tile t (lay % 2 == 1) (s.nextSeq + 1)) true false ps 0 { v.k with res }) ∧
      (∀ ps, b.l.op = 1 → own [t] → judgeShared u.s u.c u.g ((List.range 16).map fun r =>
          { lane := r, addr := spread (a % 2 ^ 32) lay r, len := 64, align := 64, use := .load }) = .parts ps →
        sends (s.nextSeq + 2) (.tile t false (s.nextSeq + 1)) true false ps 2 { v.k with res }) ∧
      (∀ ps, b.l.op = 2 → judgeGlobal u.s u.c u.g u.k.acc u.k.walked u.k.chainFault
          [{ lane := 0, addr := a, len := 64, align := 64, use := .load }] = .parts ps →
        sends (s.nextSeq + 1) (.sld t (s.nextSeq + 1)) true false ps 0
          { v.k with sld := v.k.sld ++ [{ seq := s.nextSeq + 1, entry := t }] })) ∧
    (BundleReady s v b 5 →
      let a := u.k.addr b.w.base.toNat 18 b.w.off.toNat
      let lay := b.w.layout.toNat
      let t := b.w.stile.toNat
      (∀ ps, b.w.op = 0 → own [t] → v.g.build = none →
        judgeGlobal u.s u.c u.g u.k.acc u.k.walked u.k.chainFault ((List.range 16).flatMap fun r =>
          { lane := r, addr := spread a lay r, len := 64, align := 64, use := .store, data := row t r } ::
            (if lay % 2 = 1 then rowTags u.c .store r (spread a lay r) (tags t) else [])) = .parts ps →
        sends (s.nextSeq + 1) .store false true ps 1 v.k) ∧
      (∀ ps, b.w.op = 1 → own [t] → judgeShared u.s u.c u.g ((List.range 16).map fun r =>
          { lane := r, addr := spread (a % 2 ^ 32) lay r, len := 64, align := 64, use := .store, data := row t r }) = .parts ps →
        sends (s.nextSeq + 1) .store false true ps 2 v.k) ∧
      (let off := (v.k.readA b.w.rd.toNat).toNat % 2 ^ 32
       b.w.op = 2 → own [t, t + 1, t + 2, t + 3] → v.g.build = none → tstdFault u.c u.g a off = none → v.k.storing off 64 = false →
         (∀ e ∈ v.k.acc, e.blocks = false) → sharedBad v.g off 64 = false → descFault u.s u.c a (readBytes v.g.shared off 64) = none →
         Commits b s v next { v.k with acc := v.k.acc ++ [v.queued (s.nextSeq + 1)
           (.tstd a (recordBytes (readBytes v.g.shared off 64) v.c.step.toNat)
             (((List.range 4).flatMap fun q => (List.range 16).flatMap fun r => row (t + q) r) ++
               (List.range 4).flatMap fun q => (List.range 256).map (tags (t + q))))
           false true [tilePart u.c a] (some 6)] } (v.g.pathRaise 6 (s.nextSeq + 1))) ∧
      (∀ ps, b.w.op = 3 → v.g.build = none → v.g.badSlice.contains t = false →
        judgeGlobal u.s u.c u.g u.k.acc u.k.walked u.k.chainFault
          [{ lane := 0, addr := a, len := 64, align := 64, use := .store, data := readBytes v.k.slice (64 * (t % 512)) 64 }] = .parts ps →
        sends (s.nextSeq + 1) .store false true ps 1 v.k)) ∧
    (BundleReady s v b 6 →
      let size := if b.k.op = 0 then 64 else 16
      let n := b.k.dst.toNat
      ∀ ps, judgeGlobal u.s u.c u.g u.k.acc u.k.walked u.k.chainFault [{
          lane := 0, addr := u.k.addr b.k.base.toNat 14 b.k.off.toNat, len := size, align := size, use := .load }] = .parts ps →
        (b.k.op = 0 → sends (s.nextSeq + 2) (.kreg true n (s.nextSeq + 1)) true false ps 0
          { v.k with res := [{ blank with bound := bound b.k.lb.toNat 4, regs := 1, z := some (n, 0) }] }) ∧
        (b.k.op = 1 → sends (s.nextSeq + 2) (.kreg false n (s.nextSeq + 1)) true false ps 0
          { v.k with res := [{ blank with bound := bound b.k.lb.toNat 4, regs := 1, x := some (n, 0) }] })) ∧
    (BundleReady s v b 7 → v.g.build = none →
      let r := fun n => v.k.readA n
      let a : CopyArgs := { g := b.c.op == 1, path := b.c.path.toNat, dst := (r b.c.dst.toNat).toNat, src := (r b.c.src.toNat).toNat,
                            len := (r b.c.len.toNat).toNat % 2 ^ 32, shape := r b.c.shape.toNat, flags := b.c.flags.zeroExtend 32 }
      let ch := if a.flags.getLsbD 1 then 1 else 0
      (b.c.op ≠ 2 → a.fault v.g = none → Commits b s v next v.k (v.g.pathRaise (3 + ch) (s.nextSeq + 1))) ∧
      (b.c.op = 2 → Commits b s v next { v.k with acc := v.k.acc ++ [v.queued (s.nextSeq + 1)
        (.prefr a.src a.len (rangeTiles v.c a.src a.len)) true false [{ addr := a.src, pa := 0, place := .host, len := 0 }] (some 6)] }
        (v.g.pathRaise 6 (s.nextSeq + 1)))) ∧
    (BundleReady s v b 8 →
      let id := b.y.id.toNat
      (b.y.op = 0 → Commits b s v next v.k v.g) ∧
      (b.y.op = 1 → ∀ j m, id = 32 * j + m → m < 32 → j < v.g.strands.length → offerTo v.g j m = none →
        v.g.ownerOf b.y.tile.toNat = .capstan →
        Commits b s v next v.k (v.g.withOwner b.y.tile.toNat (.offeredStrand j m s.clock (s.nextSeq + 1)))) ∧
      (b.y.op = 2 → ∀ since giver upto, v.g.ownerOf b.y.tile.toNat = .offeredCapstan since giver upto →
        takeable u.s u.g b.y.tile.toNat since = true →
        Commits b s v next { v.k with
          acc := v.k.acc ++ [v.queued (s.nextSeq + 1) (.handoff (.strand v.g.gid giver) upto) true true [] none] }
          (v.g.withOwner b.y.tile.toNat .capstan)) ∧
      (b.y.op = 3 → v.k.acc ≠ [] → Commits b s v next { v.k with acc := v.k.acc ++
        [v.queued (s.nextSeq + 1) (.arrive (id / 32 % 16) (id % 32)) false false [] none] } v.g) ∧
      (b.y.op = 3 → v.k.acc = [] → ∀ target : Group, gangMember u.s v.g (id / 32 % 16) = some target → target.state ≠ .saved →
        Commits b s v next v.k v.g ∧ ∀ t, exec (.bundleIssue b) s = .next t →
          (getCore t target.core).cleat (id % 32) = { (getCore s target.core).cleat (id % 32) with
            arrivals := ((getCore s target.core).cleat (id % 32)).arrivals ++ [{ n := 1, gid := v.g.gid, grid := v.g.grid, gangix := v.g.gangix }] }) ∧
      (b.y.op = 4 →
        let gang := b.y.scope == 1
        let cl := (getCore s v.g.core).cleat (id % 32)
        (cl.owner ≠ some v.g.gid → Commits b s v next v.k v.g) ∧
        (cl.owner = some v.g.gid → cl.phase ≠ tbit id 5 → Commits b s v next v.k v.g ∧ ∀ t, exec (.bundleIssue b) s = .next t →
          (getCore t v.g.core).l1 = if gang ∨ cl.coll then [] else (getCore s v.g.core).l1.filter fun l => !cl.lines.contains l.pa) ∧
        (cl.owner = some v.g.gid → cl.phase = tbit id 5 →
          Commits b s v next { v.k with wait := some (.clwait gang (id % 32) (tbit id 5)), waitSince := s.clock } v.g)) ∧
      (b.y.op = 7 → Commits b s v next { v.k with acc := v.k.acc ++
        [v.queued (s.nextSeq + 1) (.fence (scopeOf b.y.scope.toNat)) true true [] none] } v.g) ∧
      (b.y.op = 5 → v.g.pathCount (id % 8) ≤ (v.k.readA b.y.a.toNat).toNat → Commits b s v next v.k v.g) ∧
      (b.y.op = 5 → (v.k.readA b.y.a.toNat).toNat < v.g.pathCount (id % 8) → Commits b s v next { v.k with
        wait := some (.waitp (id % 8) (v.k.readA b.y.a.toNat).toNat), waitSince := s.clock } v.g) ∧
      (b.y.op = 6 → Commits b s v next { v.k with acc := v.k.acc ++ [v.queued (s.nextSeq + 1) .mark true true [] none] } v.g) ∧
      (b.y.op = 8 → v.g.build = none → v.k.acc = [] → ∃ t w, exec (.bundleIssue b) s = .next t ∧ capViewOf t v.g.gid = some w ∧
        w.c = { v.c with step := v.c.step + 1, stepAt := if v.c.step = v.c.stepL2 then s.clock else v.c.stepAt } ∧
        w.k = v.past v.k next))) ∧
  (∀ (s : State) (v : CapView) (b : Bundle), BundleMay s v b →
    let next := nextBundle v.k.cpc
    let holds := fun (l : List Nat) => ∀ n ∈ slotIxs, present b n = l.contains n
    (∀ at_ : Nat → State, v.stages b 9 at_ → exec (.bundleIssue b) s = .next (finishBundle (at_ 9) v.g.gid)) ∧
    (∀ (at_ : Nat → State) (n : Nat) (w : CapView) (p : PartialBundle) (t : State), n < 9 → v.stages b n at_ →
      capViewOf (at_ n) v.g.gid = some w → w.k.part = some p → p.b = b → p.idx ≤ n → present b n = true → w.commitSlot p n = .stop t →
      exec (.bundleIssue b) s = .next t) ∧
    (holds [0, 8] → b.s.op = 0 → b.s.d ≠ 0 → b.y.op = 5 → b.y.a = b.s.d →
      let sum := v.k.readA b.s.a.toNat + if b.s.i = 1 then b.s.imm.signExtend 64 else v.k.readA b.s.b.toNat
      let k := { v.k with a := v.k.a.setIfInBounds b.s.d.toNat sum }
      let p := b.y.id.toNat % 8
      (v.g.pathCount p ≤ sum.toNat → Commits b s v next k v.g) ∧
      (sum.toNat < v.g.pathCount p → Commits b s v next { k with wait := some (.waitp p sum.toNat), waitSince := s.clock } v.g)) ∧
    (holds [0, 8] → b.s.op = 11 → b.s.sub = 0 → b.y.op = 6 → Commits b s v (bundleFrom v.k.cpc b.s.imm.toInt)
      { v.k with acc := v.k.acc ++ [v.queued (s.nextSeq + 1) .mark true true [] none] } v.g) ∧
    (holds [3, 5] → isExt b 3 = false → v.g.badWords = [] → (∀ t ∈ (MSlot.tiles b.m).1 ++ (MSlot.tiles b.m).2, v.g.ownerOf t = .capstan) → b.w.op = 0 ∨ b.w.op = 1 →
      b.w.stile.toNat ∈ (MSlot.tiles b.m).1 → ∃ t w p e, exec (.bundleIssue b) s = .next t ∧ capViewOf t v.g.gid = some w ∧
        w.k.part = some p ∧ p.idx = 5 ∧ w.k.eng = v.k.eng ++ [e] ∧ e.dtiles = (MSlot.tiles b.m).1 ∧ w.k.acc = v.k.acc ∧ w.k.traps = [] ∧
        w.g.vcyc = (v.g.vcyc + 1) % 2 ^ 64 ∧ t.mem = s.mem))

/-- A result in flight that nothing overlaps lands once its data is there: a native one at any clock after its own bundle, a fixed
one and a snapshot entry at its landing cycle; an SLD's oldest write lands likewise (R66, R70, R71, R294, R448). A frozen Capstan
that waits for a tile goes on when the tile is there, and not before: the bundle that stands at its slot commits on from there (R67,
R228, R295). -/
def Obligations.CapstanLandings : Prop :=
  (∀ (s : State) (gid : Nat) (v : CapView) (x : Exposed), capViewOf s gid = some v → x.dead = [] →
     (∀ y ∈ v.flying, y.seq = x.seq → y = x) → (∀ y ∈ v.flying, y ≠ x → x.shares y = false) →
     let gone := fun (l : List Exposed) => l.filter fun y => y.seq != x.seq
     let landed : CapView := { v with
       g := { (v.g.writeWords x.v).count x.qsat x.qund with snaps := gone v.g.snaps },
       k := { v.k with
         res := gone v.k.res,
         z := (match x.z with
           | some (n, w) => v.k.z.setIfInBounds n w
           | none => v.k.z),
         x := (match x.x with
           | some (n, w) => v.k.x.setIfInBounds n w
           | none => v.k.x) } }
     let cycle := x.bound ≤ v.g.vcyc ∧ v.k.part = none
     (x ∈ v.k.res →
       (x.ready = true → x.minAt ≤ s.clock → (x.fixed = true → cycle) → (x.fixed = false → v.k.part = none) →
         exec (.exposedResultLand gid x.seq) s = .next landed.put) ∧
       (x.ready = false ∨ s.clock < x.minAt ∨ (x.fixed = true ∧ v.k.halted = false ∧ v.g.vcyc < x.bound) →
         exec (.exposedResultLand gid x.seq) s = .next s)) ∧
     (x ∈ v.g.snaps → v.g.state = .resident → v.k.taken = none → v.k.traps = [] → x.ready = true → x.op = none → cycle →
       exec (.snapshotEntryLand gid x.seq) s = .next landed.put) ∧
     (∀ (entry : Nat) (w : SldWrite), (v.k.sld.find? fun w => w.entry == entry) = some w →
       (w.data = none → exec (.sldWriteLand gid entry) s = .next s) ∧
       (∀ bs : List Byte, w.data = some bs → Memory.wf v.k.slice = true → ∃ m : Memory,
         exec (.sldWriteLand gid entry) s = .next (CapView.put { v with
           g := { v.g with badSlice := v.g.badSlice.filter (· != entry) },
           k := { v.k with slice := m, sld := v.k.sld.filter fun y => y.seq != w.seq } }) ∧
         Memory.wf m = true ∧ (∀ (n : Nat) (b : Byte), bs[n]? = some b → readByte m (64 * entry + n) = b) ∧
         ∀ a, a < 64 * entry ∨ 64 * entry + bs.length ≤ a → readByte m a = readByte v.k.slice a))) ∧
  (∀ (s : State) (gid : Nat) (v : CapView) (va : Nat) (p : PartialBundle), capViewOf s gid = some v → v.k.pageWait = some (.tile va) →
     v.k.part = some p → v.heldBack = false →
     (tileUnready s v.c va ≠ none → v.k.chainFault = none → exec (.coreFreezeEnd gid) s = .next s) ∧
     (tileUnready s v.c va = none → { v with k := { v.k with pageWait := none } }.awake = true →
       exec (.coreFreezeEnd gid) s = .next (commitFrom gid slotIxs (CapView.put { v with k := { v.k with pageWait := none } }))))

/-- The engine runs one operation at a time, in order: the oldest starts once no other runs, none that a stop has left to the engine
either, its read entries go 32 clocks later for MMAQ and 2 for the rest, and at the end of its occupancy its D tiles are written; with MSE set an element whose count is below
MTH then raises MATRIX_SIGNIFICANCE for the first such element in row-major order (R220 to R226, R230). -/
def Obligations.MatrixEngine : Prop :=
  ∀ (s : State) (gid : Nat) (v : CapView) (e : EngineOp) (rest : List EngineOp), capViewOf s gid = some v → v.k.eng = e :: rest →
    let engine := fun (l : List EngineOp) => CapView.put { v with k := { v.k with eng := l } }
    let written : CapView := { v with g := v.g.writeWords e.v, k := { v.k with eng := rest } }
    let low := fun (w : VWrite) => (countGet .f32 w.tag 0 w.word.toNat).1 < v.k.mth
    let drains := (getCore s v.g.core).drain ≠ []
    (e.started = false → ¬ drains → exec (.mmaStart gid) s =
      .next (engine ({ e with started := true, relAt := s.clock + if e.occ = 128 then 32 else 2 } :: rest))) ∧
    (e.started = true ∨ drains → exec (.mmaStart gid) s = .next s) ∧
    (exec (.scoreboardReadRelease gid e.seq) s = .next (engine ((e :: rest).map fun o =>
      if o.seq = e.seq ∧ o.started = true ∧ o.relAt ≤ s.clock then { o with rdReleased := true } else o))) ∧
    (e.started = false ∨ e.left ≠ 0 → exec (.mmaComplete gid) s = .next s) ∧
    (e.started = true → e.left = 0 →
      (v.k.mse = false ∨ e.check = false ∨ (∀ w ∈ e.v, ¬ low w) → exec (.mmaComplete gid) s = .next written.put) ∧
      (v.k.mse = true → e.check = true → v.g.build = none → ∀ w ∈ e.v, low w → ∃ (f : VWrite) (c : CTrap),
        f ∈ e.v ∧ low f ∧ (∀ o ∈ e.v, low o → matOrder e.dtiles f ≤ matOrder e.dtiles o) ∧
        exec (.mmaComplete gid) s = .next (CapView.put { written with k := { written.k with traps := v.k.traps ++ [c] } }) ∧
        c.cause = 0x0C ∧ c.compl = true ∧ c.smask = 0x020 ∧ c.bpc = e.bpc ∧
        c.due = { v.k with eng := rest }.trapDue s.clock ∧
        c.extra = BitVec.ofNat 32 (f.tile % 512 + (f.reg * 32 + f.lane) % 256 * 2 ^ 9 +
          (countGet .f32 f.tag 0 f.word.toNat).1 % 32 * 2 ^ 17)))

/-- Strands' results land at their clock, and not before: their words with tags, uniform registers and counts. A checked one with
an element whose stored count is below TH then raises SIGNIFICANCE, with the lanes that fail (R131, R134, R137, R163). Behind a trap
that is pending and was found late too it waits; before the pending trap of a later instruction, which then issues again, it is
taken: the model's choice (log 44). -/
def Obligations.StrandLandings : Prop :=
  ∀ (s : State) (gid j : Nat) (v : View) (f : Flight), viewOf s gid j 0 0 = some v → f ∈ v.st.flights →
    (∀ x ∈ v.st.flights, x ≠ f → s.clock < x.landAt) →
    let w : View := { v with
      g := f.s.foldl (fun g e => g.writeS e.1 e.2) ((v.g.writeWords f.v).count f.qsat f.qund),
      st := { v.st with flights := v.st.flights.filter fun x => x.seq != f.seq } }
    (s.clock < f.landAt → exec (.strandResultLand gid j) s = .next s) ∧
    (f.landAt ≤ s.clock →
      (f.chk = none → exec (.strandResultLand gid j) s = .next w.put) ∧
      (∀ k : SigCheck, f.chk = some k →
        let fails := fun (i e : Nat) => i < 32 ∧ k.lanes.getLsbD i = true ∧ e < 8 ∧ k.elems / 2 ^ e % 2 = 1 ∧ ∃ r ∈ k.regs,
          let x := tileWord w.g r.1 r.2 i
          let code := if k.fmt = .f64 then x.1.toNat + (tileWord w.g r.1 (r.2 + 1) i).1.toNat * 2 ^ 32 else elemAt k.fmt x.1.toNat e
          (countGet k.fmt x.2 e code).2 = true ∧ (countGet k.fmt x.2 e code).1 < v.st.sigth.toNat
        ((∀ i e, ¬ fails i e) → exec (.strandResultLand gid j) s = .next w.put) ∧
        ((∃ i e, fails i e) → ∃ t : TrapRec,
          (v.st.trap = none → exec (.strandResultLand gid j) s = .next (raiseTrap w t)) ∧
          (∀ x, v.st.trap = some x →
            (x.late = true → v.g.build = none → exec (.strandResultLand gid j) s =
              .next (View.put { w with st := { w.st with later := w.st.later ++ [t] } })) ∧
            (x.late = false ∨ v.g.build ≠ none →
              exec (.strandResultLand gid j) s = .next (raiseTrap { w with st := w.st.reissue x } t))) ∧
          t.cause = 0x0B ∧ t.pc = k.pc ∧ t.rpc = v.st.pc ∧ t.iw0 = k.iw0 ∧ (∀ i, i < 32 → (t.lanes.getLsbD i = true ↔ ∃ e, fails i e)) ∧
          ∀ e, e < 8 → (t.extra.getLsbD (4 + e) = true ↔ ∃ i, fails i e))))

/-- A trap that waited for the strand's results is taken once they have landed: the strand enters its handler 40 clocks later. A
Capstan trap stops the Capstan, sends what is in flight to the snapshot buffer, writes CREG and CREC, and is delivered to the
lowest strand that has not ended, once that is in no handler and has no trap of its own and its results have landed, also where it
waits, but for the wait of a LAUNCH, a BELAY, a schedule, a reform or a RETIRE; with nobody to take it, or no record that can be
written, the context ends (R226, R230, R440, R442 to R444, R448). That CREG holds MSE as it stood before the entry, that FATAL receives
the Capstan record, and what an unreadable trap block brings are the model's own (logs 28, 29, 138). -/
def Obligations.TrapEntries : Prop :=
  (∀ (s : State) (gid j : Nat) (v : View) (t : TrapRec), viewOf s gid j 0 0 = some v → v.st.trap = some t → v.g.state = .resident →
    (v.st.quiet = false → exec (.strandTrapEntry gid j) s = .next s) ∧
    (v.takesTraps → ∃ r w, exec (.strandTrapEntry gid j) s = .next r ∧ viewOf r gid j 0 0 = some w ∧ w.st = v.inHandler t ∧
      w.g = v.g.putStrand j w.st ∧ r.mem = (sysWrite s v.c (v.c.trapvec + 0x100 + 64 * j)
        ((if t.late then { t with rpc := v.st.pc } else t).bytes false j v.st.em)).mem ∧
      ∀ n, n ≠ gid → getGroup r n = getGroup s n)) ∧
  (∀ (s : State) (gid : Nat) (v : CapView) (t : CTrap), capViewOf s gid = some v → v.g.state = .resident →
    (∀ u, v.k.taken = some u → exec (.capstanTrap gid) s = .next s) ∧
    (v.k.taken = none → v.k.traps = [t] → t.compl = true → v.k.part ≠ none → exec (.capstanTrap gid) s = .next s) ∧
    (v.k.taken = none → v.k.traps = [t] → s.clock < t.due → exec (.capstanTrap gid) s = .next s) ∧
    (v.k.taken = none → v.k.traps = [t] → t.due ≤ s.clock → v.k.part = none ∨ t.compl = false →
      let at_ := t.placed v.k
      let lost := blockWritable s v.c 0x900 64 = false ∨ blockWritable s v.c 0x1000 0xAF0 = false
      (t.compl = false → at_ = t) ∧
      (t.compl = true → v.k.reenter = none → at_ = { t with crpc := v.k.cpc, sresume := 0, npc := nextBundle v.k.cpc }) ∧
      (lost → exec (.capstanTrap gid) s = .next (v.snapshot.fatal at_)) ∧
      (¬ lost → exec (.capstanTrap gid) s = .next (CapView.put { v with
        s := v.snapshot.writeTrap at_,
        g := { v.g with snaps := v.g.snaps ++ v.k.res ++ engineSnaps v.g.vcyc v.k.mse (getCore s v.g.core).drainLeft v.k.eng },
        k := { v.k with
          res := [], eng := [], traps := [], part := none, reenter := none, pageWait := none, taken := some at_, delivered := false,
          mse := v.k.mse && t.cause != 0x0C } })))) ∧
  (∀ (s : State) (gid j : Nat) (v : CapView) (t : CTrap) (u : View), capViewOf s gid = some v → v.g.state = .resident →
    v.k.taken = some t → v.k.delivered = false →
    ((∀ st ∈ v.g.strands, st.pdone = true) → exec (.capstanTrapDelivery gid) s = .next (v.fatal t)) ∧
    (viewOf s gid j 0 0 = some u → u.st.pdone = false → (∀ k < j, ∀ st, v.g.strands[k]? = some st → st.pdone = true) →
      let stays := ∃ x, u.st.wait = some x ∧ match x.kind with
        | .launch .. | .belay .. | .sched _ | .tkreform .. | .retire .. => True
        | _ => False
      (u.st.handler ≠ none ∨ u.st.trap ≠ none ∨ u.st.quiet = false ∨ stays → exec (.capstanTrapDelivery gid) s = .next s) ∧
      (u.st.handler = none → u.st.trap = none → u.st.quiet = true → ¬ stays → sysReads s v.c v.c.trapvec 12 = true →
        sysNat s v.c v.c.trapvec 8 ≠ 0 → blockWritable s v.c (0x100 + 64 * j) 64 = true →
        ∃ r w k, exec (.capstanTrapDelivery gid) s = .next r ∧ viewOf r gid j 0 0 = some w ∧ w.g.cap = some k ∧
          k = { v.k with delivered := true } ∧
          w.st = { u.st with
            handler := some { masked := !tbit (sysNat s v.c (v.c.trapvec + 8) 4) t.cause, cause := t.cause, kind := 1, since := s.clock },
            em := u.st.live, pc := BitVec.ofNat 64 (sysNat s v.c v.c.trapvec 8), readyAt := s.clock + 40, wait := none })))

/-! ### Memories and consistency -/

/-- The parts of a sent store, load or atomic at the head of an agent's list are performed at their places: a store writes its
bytes and no other, a load that is complete writes its registers, of every width and with its tags, and no byte, an atomic writes its
new value once and returns the old, in HBM4E and in shared memory, as integers and as F32 numbers (R256, R258, R274, R280, R282, R283,
R285, R302, R304). CMO maintains its lines and drops its derived tiles; PREFR fills its lines and has its DROPPED tiles built; TSTD
writes its tile and its record, and waits while another group's build runs (R288, R289, R298, R299). That a store with a poisoned part
keeps its lane's parts together, that the parts of a load on one tile are performed together, that TSTD's record is written in
place, and that an atomic's lanes are performed one after another, are the model's own (logs 152, 153, 139, 151). -/
def Obligations.MemoryAccesses : Prop :=
  (∀ (s : State) (ag : Agent) (g : Group) (c : Ctx) (e : Entry) (rest : List Entry) (ix : Nat) (p : Part),
    getGroup s ag.gid = some g → g.state ≠ .saved → getCtx s g.ctx = some c → accOf g ag = e :: rest → e.sent = true → e.frames = [] →
    e.parts[ix]? = some p → p.done = false → (∀ q ∈ e.parts.take ix, q.done = true) → (∀ q ∈ e.parts, q.err = 0) →
    let x := Instr.memoryAccessPerform ag e.seq ix
    let wrote := fun (m m' : Memory) (bs : List Byte) =>
      (∀ (n : Nat) (b : Byte), bs[n]? = some b → readByte m' (p.pa + n) = b) ∧
      ∀ a, a < p.pa ∨ p.pa + bs.length ≤ a → readByte m' a = readByte m a
    let home := (∃ d sl, p.place = .home d sl) ∧ (∀ q ∈ e.parts, isPoisoned s q.pa = false)
    let held := (l2Line s p.pa).isSome = true
    (e.kind = .store → e.isSt = true → home → held → Memory.wf s.mem = true →
      ∃ t, exec x s = .next t ∧ wrote s.mem t.mem p.data ∧ Memory.wf t.mem = true) ∧
    (e.kind = .store → e.isSt = true → p.place = .shared ag.gid → Memory.wf g.shared = true →
      ∃ t g', exec x s = .next t ∧ getGroup t ag.gid = some g' ∧ t.mem = s.mem ∧ wrote g.shared g'.shared p.data ∧
        ∀ k, k ≠ ag.gid → getGroup t k = getGroup s k) ∧
    (∀ (j : Nat) (w : Width) (sx cg tagged : Bool) (d : Nat), ag = .strand g.gid j → e.kind = .load w sx cg tagged d → e.isLd = true → e.isSt = false →
      e.parts.length = ix + 1 → 0 < p.len →
      let lands := fun (bs : List Byte) =>
        let parts := e.parts.take ix ++ [{ p with done := true, got := bs }]
        let tagOf := fun (lane n : Nat) => match parts.find? fun q => q.isTag && q.lane == lane && q.word == n with
          | some q => q.got.getD 0 0xFF
          | none => 0xFF
        let words := (parts.filter fun q => !q.isTag).flatMap fun q => (List.range (max 1 (w.bytes / 4))).map fun n => ({
          tile := (d + n) / 8, reg := (d + n) % 8, lane := q.lane,
          word := if w.bytes ≤ 4 then BitVec.ofNat 32 (if sx then sext64 (8 * w.bytes) (leNat q.got) else leNat q.got)
                  else BitVec.ofNat 32 (leNat q.got / 2 ^ (32 * n)),
          tag := if tagged then tagOf q.lane n else 0xFF } : VWrite)
        ∃ t g', exec x s = .next t ∧ getGroup t g.gid = some g' ∧ t.mem = s.mem ∧
          accOf g' ag = rest.filter (fun y => y.seq != e.seq) ∧
          (∀ q, e.path = some q → g'.paths = (g.pathLower q e.seq).paths) ∧ g'.regs = (g.writeWords words).regs
      (p.place = .shared g.gid → sharedBad g p.pa p.len = false → lands (readBytes g.shared p.pa p.len)) ∧
      ((∃ dd sl, p.place = .derived dd sl) → tileUnready s c p.addr = none → recordLost s c p.addr = none → tileGone s c p.addr = false →
        lands (tileBytes s c p)) ∧
      ((∃ dd sl, p.place = .home dd sl) →
        (∀ l, cg = false → l1Line (getCore s g.core) p.pa = some l → lands ((l.bytes.drop (p.pa % 128)).take p.len)) ∧
        (cg = true ∨ l1Line (getCore s g.core) p.pa = none → isPoisoned s p.pa = false → held → lands (readBytes s.mem p.pa p.len)))) ∧
    (∀ (op : AOp) (f : Fmt) (ord : Order) (sc : Scope) (d : Option Nat), e.kind = .atom op f ord sc d → p.len = 4 → leNat p.data < 2 ^ 32 →
      let b := leNat p.data
      let combined := fun (old new : Nat) =>
        (f ≠ .f32 ∨ op = .exch → match op with
          | .add => new = (old + b) % 2 ^ 32
          | .and => new = old &&& b
          | .or => new = old ||| b
          | .xor => new = old ^^^ b
          | .exch => new = b
          | .inc => new = if b ≤ old then 0 else old + 1
          | .min => (new = old ∨ new = b) ∧ elemInt f new 0 = min (elemInt f old 0) (elemInt f b 0)
          | .max => (new = old ∨ new = b) ∧ elemInt f new 0 = max (elemInt f old 0) (elemInt f b 0)) ∧
        (f = .f32 → op = .add ∨ op = .min ∨ op = .max →
          let u := numOf .f32 old
          let w := numOf .f32 b
          let o : NanSrc := ⟨p.lane, 0, e.pc⟩
          let r := if op = .add then u.add false w else if op = .min then (if w.lt true u then w else u) else if u.lt true w then w else u
          new = match firstNan [u, w] with
            | some n => n.nanCode .f32 o
            | none => if r = .bad then originNan .f32 o else (roundTo .f32 r .rn false 0).code)
      let returned := fun (g' : Group) (old : Nat) => ∀ (j r : Nat), ag = .strand g.gid j → d = some r → e.parts = [p] →
        g'.regs = (g.writeWords [{ tile := r / 8, reg := r % 8, lane := p.lane, word := BitVec.ofNat 32 old, tag := 0xFF }]).regs
      (home → held → Memory.wf s.mem = true → ∃ t new g', exec x s = .next t ∧ getGroup t g.gid = some g' ∧
        wrote s.mem t.mem (leBytes 4 new) ∧ g'.shared = g.shared ∧ combined (readNat s.mem p.pa 4) new ∧ returned g' (readNat s.mem p.pa 4)) ∧
      (p.place = .shared g.gid → (∀ q ∈ e.parts, sharedBad g q.pa q.len = false) → Memory.wf g.shared = true →
        ∃ t new g', exec x s = .next t ∧ getGroup t g.gid = some g' ∧ t.mem = s.mem ∧ wrote g.shared g'.shared (leBytes 4 new) ∧
          combined (readNat g.shared p.pa 4) new ∧ returned g' (readNat g.shared p.pa 4))) ∧
    (∀ (ord : Order) (sc : Scope) (d : Nat) (wide : Bool), e.kind = .cas ord sc d wide → p.data.length = p.len →
      (home → held → Memory.wf s.mem = true → ∃ t, exec x s = .next t ∧
        (readBytes s.mem p.pa p.len = p.cmp → wrote s.mem t.mem p.data) ∧ (readBytes s.mem p.pa p.len ≠ p.cmp → t.mem = s.mem)) ∧
      (p.place = .shared g.gid → (∀ q ∈ e.parts, sharedBad g q.pa q.len = false) → Memory.wf g.shared = true →
        ∃ t g', exec x s = .next t ∧ getGroup t g.gid = some g' ∧ t.mem = s.mem ∧
          (readBytes g.shared p.pa p.len = p.cmp → wrote g.shared g'.shared p.data) ∧
          (readBytes g.shared p.pa p.len ≠ p.cmp → g'.shared = g.shared)))) ∧
  (∀ (s : State) (ag : Agent) (g : Group) (c : Ctx) (e : Entry) (rest : List Entry) (ix : Nat), getGroup s ag.gid = some g → g.state ≠ .saved →
    getCtx s g.ctx = some c → accOf g ag = e :: rest → e.sent = true → e.frames = [] → (∀ q ∈ e.parts, q.err = 0) →
    let x := Instr.memoryAccessPerform ag e.seq ix
    let complete := fun (t : State) => ∃ g', getGroup t g.gid = some g' ∧ accOf g' ag = rest.filter (fun y => y.seq != e.seq) ∧
      ∀ q, e.path = some q → g'.paths = (g.pathLower q e.seq).paths
    (∀ (op : CmoOp) (level : CmoLevel) (base len : Nat), e.kind = .cmo op level base len → e.parts = [] →
      (∀ va pa, rangeTiles c base len = [] → rangeLines s c base len = [(va, pa)] → let line := pa / 128 * 128
        ∃ t, exec x s = .next t ∧ complete t ∧
          (op ≠ .clean → ∀ l ∈ (getCore t g.core).l1, overlaps line 128 l.pa 128 = false) ∧
          (op = .clean → (getCore t g.core).l1 = (getCore s g.core).l1) ∧
          (level ≠ .mem → t.mem = s.mem ∧ t.l2 = s.l2) ∧
          (level = .mem → op = .clean → t.mem = s.mem ∧ ∀ l ∈ t.l2, l.tile = none → l.pa = line → l.old = none) ∧
          (level = .mem → op ≠ .clean → t.l2 = s.l2.filter fun l => !(l.tile.isNone && l.pa == line)) ∧
          (level = .mem → op = .cleaninval → t.mem = s.mem) ∧
          (level = .mem → op = .inval → t.mem = match (l2Line s pa).bind (·.old) with
            | some bs => writeBytes s.mem line bs
            | none => s.mem)) ∧
      (∀ va r n, rangeTiles c base len = [va] → regionAt c va = some (r, n) → rangeLines s c base len = [] → ∃ t, exec x s = .next t ∧ complete t ∧
        (op = .clean ∨ level = .l1 → t.mem = s.mem ∧ t.dtiles = s.dtiles) ∧
        (op ≠ .clean → level ≠ .l1 → recState s c r n = rsPresent →
          t.dtiles = s.dtiles.filter fun d => !(d.ctx == c.id && d.va == va)))) ∧
    (∀ (base len : Nat) (tiles : List Nat), e.kind = .prefr base len tiles → e.parts.length = 1 →
      ((∀ va ∈ tiles, tileUnready s c va = none) →
        ((∀ l ∈ rangeLines s c base len, (l2Line s l.2).isSome = true) →
          ∃ t, exec x s = .next t ∧ complete t ∧ t.mem = s.mem ∧ t.l2 = s.l2) ∧
        (∀ va pa, rangeLines s c base len = [(va, pa)] → l2Line s pa = none → pa < 2 ^ 47 →
          (∀ l ∈ s.l2, (l.die, l.slice, l.set) ≠ homeOf pa) →
          ∃ t l, exec x s = .next t ∧ complete t ∧ t.mem = s.mem ∧ t.l2 = s.l2 ++ [l] ∧ l.tile = none ∧ l.pa = pa / 128 * 128 ∧
            (l.die, l.slice, l.set) = homeOf pa)) ∧
      (∀ va r n, tiles = [va] → regionAt c va = some (r, n) → recState s c r n = rsDropped → rangeLines s c base len = [] → g.build = none →
        1 ≤ c.rcpdepth → (∀ b ∈ s.builds, b.ctx = c.id → b.va = va → b.done = true) → ∃ t g', exec x s = .next t ∧
          t.builds = s.builds ++ [{ key := s.nextSeq, ctx := c.id, va, chain := s.nextChain, depth := 1, by_ := none }] ∧
          getGroup t g.gid = some g' ∧ g'.paths = g.paths ∧ (accOf g' ag).map (·.seq) = (e :: rest).map (·.seq) ∧
          (accOf g' ag).head?.map (·.kind) = some (.prefr base len [va]))) ∧
    (∀ (va : Nat) (rec_ data : List Byte) (r : Region) (n : Nat), e.kind = .tstd va rec_ data → regionAt c va = some (r, n) →
      recordLost s c va = none →
      (builtAway s g c va = true ∨ (recState s c r n = rsPresent ∧ tileAwaited s c.id va = true) → exec x s = .next s) ∧
      (builtAway s g c va = false → recState s c r n ≠ rsPresent ∨ tileAwaited s c.id va = false → e.parts.length = 1 →
        ∀ s1, placeTile (fillRecord s c (recordAddr r n)) c r n va = some s1 → ∃ t, exec x s = .next t ∧
          (∀ (k : Nat) (b : Byte), data[k]? = some b → tileByte t c.id va k = b) ∧
          t.dtiles.filter (fun d => !(d.ctx == c.id && d.va == va)) = s1.dtiles.filter (fun d => !(d.ctx == c.id && d.va == va)) ∧
          t.mem = (sysPoke { s1 with dtiles := t.dtiles } c (recordAddr r n) rec_).mem)))

/-- A finished walk's leaf enters the core's TLB, and what else it found is left for those that wait; a line that is not in the L2
takes a way of its home set that holds none; an error corrected counts in CECNT, one that cannot be corrected drops a cached copy,
poisons a line of HBM4E or marks a word; a poisoned line keeps the unit that the first access to it reports, and later ones name the
poison table: the model's own (log 39) (R256, R257, R269 to R272, R376, R377). -/
def Obligations.CachesAndErrors : Prop :=
  (∀ (s : State) (core ix : Nat) (w : Walk) (c : Ctx), (getCore s core).walks[ix]? = some w → getCtx s w.ctx = some c →
    let left := (getCore s core).walks.eraseIdx ix
    (∀ base large r wr x bly ten, walk s c (w.page * 65536) = .leaf base large r wr x bly ten → ∃ t, exec (.pageWalkComplete core ix) s = .next t ∧
      t.groups = s.groups ∧ t.mem = s.mem ∧ (getCore t core).walks = left ∧
      { ctx := w.ctx, base := if large then w.page * 65536 / 2097152 * 2097152 else w.page * 65536,
        leaf := .leaf base large r wr x bly ten } ∈ (getCore t core).tlb) ∧
    (∀ r, walk s c (w.page * 65536) = r → (∀ base large rd wr x bly ten, r ≠ .leaf base large rd wr x bly ten) → ∀ ag,
      w.waiters = [ag] → ∀ gid j, ag = .strand gid j → ∀ v, viewOf s gid j 0 0 = some v → ∃ t u, exec (.pageWalkComplete core ix) s = .next t ∧
        viewOf t gid j 0 0 = some u ∧ u.st = { v.st with walked := aset v.st.walked w.page (match r with
          | .malformed k => .malformed (if 16 ≤ k then k + (aget s.fresh ((k - 16) / 128 * 128)).getD 0 else k)
          | _ => r) } ∧ (getCore t core).tlb = (getCore s core).tlb ∧
        (getCore t core).walks = left)) ∧
  (∀ (s : State) (ctx : Option Nat) (va pa : Nat) (ns nc : Bool),
    let h := homeOf pa
    let here := s.l2.filter fun l => l.die == h.1 && l.slice == h.2.1 && l.set == h.2.2
    (2 ^ 47 ≤ pa → pa < 2 ^ 48 → exec (.l2Fill ctx va pa ns nc) s = .next s) ∧
    ((∃ l ∈ s.l2, l.tile = none ∧ l.pa = pa / 128 * 128) → exec (.l2Fill ctx va pa ns nc) s = .next s) ∧
    (pa < 2 ^ 47 → (∀ l ∈ s.l2, l.tile = none → l.pa ≠ pa / 128 * 128) → ∀ w, w < Config.ways → (∀ l ∈ here, l.way ≠ w) →
      (∀ k, k < w → ∃ l ∈ here, l.way = k) → exec (.l2Fill ctx va pa ns nc) s = .next { s with l2 := s.l2 ++ [{
        die := h.1, slice := h.2.1, set := h.2.2, way := w, pa := pa / 128 * 128, ctx, va := va / 128 * 128, tile := none, old := none }] })) ∧
  (∀ (s : State) (die : Fin 8) (ix pa core gid off : Nat) (l : L2Line) (g : Group),
    let line := pa / 128 * 128
    exec (.eccCorrectableError die.val) s = .next { s with cecnt := s.cecnt.set die.val (s.cecnt[die.val] + 1) } ∧
    (∃ t, exec (.eccUncorrectableError (.l1 core pa)) s = .next t ∧ (∀ x ∈ (getCore t core).l1, overlaps line 128 x.pa 128 = false) ∧
      t.mem = s.mem ∧ t.groups = s.groups) ∧
    (s.l2[ix]? = some l → ∀ va, l.tile = some va → exec (.eccUncorrectableError (.l2 ix)) s = .next (dropTile s (l.ctx.getD 0) va)) ∧
    (s.l2[ix]? = some l → l.tile = none →
      (l.old = none → exec (.eccUncorrectableError (.l2 ix)) s = .next { s with l2 := s.l2.eraseIdx ix }) ∧
      (∀ bs, l.old = some bs → l.pa % 128 = 0 → l.pa ∉ s.poison → exec (.eccUncorrectableError (.l2 ix)) s = .next
        { s with l2 := s.l2.eraseIdx ix, mem := writeBytes s.mem l.pa bs, poison := s.poison ++ [l.pa],
                 fresh := s.fresh ++ [(l.pa, 2)] })) ∧
    ((∀ x ∈ s.l2, x.tile = none → x.pa ≠ line) → line ∉ s.poison →
      exec (.eccUncorrectableError (.hbm pa)) s =
        .next { s with poison := s.poison ++ [line], fresh := s.fresh ++ [(line, 1)] }) ∧
    (getGroup s gid = some g →
      (g.badShared = [] → exec (.eccUncorrectableError (.shared gid off)) s = .next (putGroup s { g with badShared := [off / 4 * 4] })) ∧
      (g.badWords = [] → ∀ t w, exec (.eccUncorrectableError (.tile gid t w)) s = .next (putGroup s { g with badWords := [t * 256 + w] })) ∧
      (g.badSlice = [] → ∀ n, exec (.eccUncorrectableError (.slice gid n)) s = .next (putGroup s { g with badSlice := [n] }))))

/-- SPLICE_BUILD_START of a DROPPED tile starts its build, unless one has started: a chain of its own for an ordinary group, its group's chain
one deeper for a recompute group. The oldest build of a die is admitted once the sets have room and its entry is usable: the tile
is BUILDING and a grid of one group is to be placed; an unusable entry aborts the chain with reason 5, and a build deeper than
RCPDEPTH with cause 0x10 (R400 to R403, R406). That the event starts a build with no access named, and which sets are counted at
admission, are the model's own (logs 70, 71). -/
def Obligations.Splices : Prop :=
  ∀ (s : State) (ctx va : Nat) (c : Ctx) (r : Region) (n : Nat), getCtx s ctx = some c → regionAt c va = some (r, n) → va % 4096 = 0 →
    let dropped := recState s c r n = rsDropped
    let none_ := ∀ b ∈ s.builds, b.ctx = ctx → b.va = va → b.done = true
    (¬ dropped → exec (.spliceBuildStart ctx va none) s = .next s) ∧
    (dropped → ¬ none_ → exec (.spliceBuildStart ctx va none) s = .next s) ∧
    (dropped → none_ → 1 ≤ c.rcpdepth → exec (.spliceBuildStart ctx va none) s = .next { s with
      builds := s.builds ++ [{ key := s.nextSeq, ctx := c.id, va, chain := s.nextChain, depth := 1, by_ := none }],
      nextSeq := s.nextSeq + 1, nextChain := s.nextChain + 1 }) ∧
    (∀ (key : Nat) (b : Build), dropped → none_ → buildByKey s key = some b →
      (b.depth + 1 ≤ c.rcpdepth → exec (.spliceBuildStart ctx va (some key)) s = .next { s with
        builds := s.builds ++ [{ key := s.nextSeq, ctx := c.id, va, chain := b.chain, depth := b.depth + 1, by_ := some key }],
        nextSeq := s.nextSeq + 1 }) ∧
      (c.rcpdepth < b.depth + 1 → exec (.spliceBuildStart ctx va (some key)) s = .next (abortChain s b.chain 0x10 0 b.depth 0))) ∧
    (∀ b : Build, buildOf s ctx va = some b → b.admitted = false → s.builds.head? = some b →
      (∃ pa pl, sysCheck s c .load (recordAddr r n) = .ok pa pl ∧ isPoisoned s pa = false) →
      setsFit s r.die (n % Config.slices) ((ctx, va) :: (presentSources s c r n).map fun p => (ctx, p)) = true →
      let entry := kernelEntry s c (sysNat s c (recordAddr r n) 2)
      (¬ dropped → exec (.spliceBuildAdmit ctx va) s = .next { s with builds := s.builds.filter fun o => o.key != b.key }) ∧
      (dropped → entry = .unusable → exec (.spliceBuildAdmit ctx va) s = .next (abortBuild s b.key 0x12 5 0)) ∧
      (∀ ws, dropped → entry = .usable ws → ∃ (t : State) (x : Grid), exec (.spliceBuildAdmit ctx va) s = .next t ∧
        t.mem = (setRecord s c r n rsBuilding b.depth b.chain).mem ∧ t.groups = s.groups ∧
        t.builds = s.builds.map (fun o => if o.key = b.key then { o with admitted := true, pins := presentSources s c r n } else o) ∧
        t.grids = s.grids ++ [x] ∧ x.origin = .recompute b.key ∧ x.ctx = c.id ∧ x.words = ws ∧ x.state = .fetch ∧
        x.prio = c.rcpcores.toNat / 2 ^ 8 % 4)) ∧
    (∀ chain, (∀ b ∈ s.builds, b.chain = chain → (b.done = true ∨ b.gid = none) ∧ (b.admitted = true ∨ ∀ c, getCtx s b.ctx = some c → b.depth ≤ c.rcpdepth)) →
      exec (.spliceChainAbort chain) s = .next s) ∧
    (∀ (b : Build) (gid : Nat), s.builds = [b] → b.done = false → b.admitted = true → b.gid = some gid → getGroup s gid = none →
      exec (.spliceChainAbort b.chain) s = .next (abortChain s b.chain 0x12 3 b.depth 0))

/-! ### Queues I: the distributor -/

/-- A doorbell moves TAIL, unless it would hold more entries than the queue has, which stops it with reason 10; W0 and W2 take
writes while EN is 0, W1 sets QLOG2, PRIO and EN; the entry at HEAD is read, and either stops the queue with its reason or is
accepted with HEAD advanced (R325, R326, R334). That a tenant's queues are read under its first context that has not ended, and that a
host grid has its queue's priority as it was accepted, are the model's own (logs 10, 68). -/
def Obligations.QueueRecords : Prop :=
  ∀ (s : State) (t q : Nat), s.boot = 2 → t < 16 → q < 8 →
    let d := getQueue s t q
    (∀ tail : Word,
      ((tail - d.head).toNat ≤ 2 ^ d.log2 → exec (.queueTailDoorbell t q tail) s = .next (putQueue s t q { d with tail })) ∧
      (2 ^ d.log2 < (tail - d.head).toNat → exec (.queueTailDoorbell t q tail) s = .next (raiseEvent
        (putQueue s t q { d with stopped := true, qerr := 10 }) t 1))) ∧
    (∀ v : DWord,
      let sets := fun (word : Fin 3) (d' : QDesc) => exec (.queueConfigWrite t q word v) s = .next (putQueue s t q d')
      let keeps := fun (word : Fin 3) => exec (.queueConfigWrite t q word v) s = .next s
      let asked := v.toNat % 32
      let size := if d.en = false ∧ 4 ≤ asked ∧ asked ≤ 16 then asked else d.log2
      let w1 := { d with log2 := size, prio := v.toNat / 2 ^ 8 % 4 }
      (d.en = true → keeps 0 ∧ keeps 2) ∧
      (d.en = false → (v.toNat % 4096 = 0 → sets 0 { d with base := v.toNat }) ∧ (v.toNat % 4096 ≠ 0 → keeps 0) ∧
        sets 2 { d with head := v.extractLsb' 0 32 }) ∧
      (v.getLsbD 16 = false → sets 1 { w1 with en := false }) ∧
      (v.getLsbD 16 = true → (4 ≤ size ∧ size ≤ 16 → sets 1 { w1 with en := true, stopped := false, qerr := 0 }) ∧
        (size < 4 ∨ 16 < size → sets 1 w1))) ∧
    ((getTenant s t).en = false ∨ d.en = false ∨ d.stopped = true ∨ d.head = d.tail → exec (.distributorRecordRead t q) s = .next s) ∧
    ((getTenant s t).en = true → d.en = true → d.stopped = false → d.head ≠ d.tail → ∀ (c : Ctx) (bs : List Byte),
      queueCtx s t = some c → readSys s c .load ((d.base + d.head.toNat % 2 ^ d.log2 * 128) % 2 ^ 64) 128 = .bytes bs →
      (∀ r, recordFault (recordWords bs) = some r → exec (.distributorRecordRead t q) s = .next (raiseEvent
        (putQueue s t q { d with stopped := true, qerr := r }) t 1)) ∧
      (recordFault (recordWords bs) = none → ∃ x : Grid, exec (.distributorRecordRead t q) s = .next (putQueue
          { s with nextSeq := s.nextSeq + 1, grids := s.grids ++ [x] } t q { d with head := d.head + 1 }) ∧
        x.id = s.nextSeq ∧ x.ctx = c.id ∧ x.origin = .host t q ∧ x.words = recordWords bs ∧ x.state = .queued ∧
        x.gridid = d.head.toNat ∧ x.prio = d.prio ∧ x.step = c.step))

/-- A grid at its queue's head waits for its two counters and is then taken; its copies are read; a gang of one group that fits is
placed whole, with its strands at their entries and the launch identity in its registers, and one that does not ages; a group that
has ended leaves its core, and the grid's last sends it to its completion: its counter's count rises, with bit 63 where it was
refused or had been set (R27, R41, R43, R327, R329 to R333, R335, R337, R338). That a group's end waits for its accesses and results in
flight too, and that a grid may pass from QUEUED to FETCH in one step, are the model's own (logs 67, 69). -/
def Obligations.GridLife : Prop :=
  ∀ (s : State) (id : Nat) (x : Grid) (c : Ctx), getGrid s id = some x → getCtx s x.ctx = some c →
    let met := fun (n : Nat) => readCounter s c (recWord x.words n) (recWord x.words (n + 1))
    (∀ t q, x.origin = .host t q → x.dep0 = false → x.dep1 = false → x.state = .queued ∨ x.state = .waitdep → atHead s x = true →
      (∀ a b, met 10 = .met a → met 12 = .met b → (a && b) = false →
        exec (.dependencePoll id) s = .next (putGrid s { x with state := .waitdep, dep0 := a, dep1 := b })) ∧
      (met 10 = .met true → met 12 = .met true → exec (.dependencePoll id) s = .next
        { putGrid s { x with state := .fetch, taken := true, dep0 := true, dep1 := true } with lastQueue := 8 * t + q })) ∧
    (x.state = .queued → atHead s x = false → exec (.dependencePoll id) s = .next s) ∧
    (x.state ≠ .fetch → exec (.gridFetchComplete id) s = .next s) ∧
    (∀ a b, x.state = .fetch → fetchCopies s c x = .ok (a, b) →
      exec (.gridFetchComplete id) s = .next (putGrid s { x with args := a, image := b, state := .placing })) ∧
    (workList s = [.grid x] → s.reservations = [] → x.state = .placing → recGroups x.words = 1 → recGang x.words = 1 → x.nextGang = 0 →
      x.args.length ≤ 2048 →
      (findCores s (Work.want s (.grid x)) = none → x.age + 1 < c.gangage.toNat →
        exec .placementPass s = .next (putGrid s { x with age := x.age + 1 })) ∧
      (∀ core, findCores s (Work.want s (.grid x)) = some [core] → (∀ e ∈ (getCore s core).cleats, e.2.arrivals = []) →
        ∃ t g y, exec .placementPass s = .next t ∧
        t.groups = s.groups ++ [g] ∧ t.mem = s.mem ∧ getGrid t id = some y ∧ y.state = .placed ∧ y.nextGang = 1 ∧
        g.gid = s.nextGid ∧ g.ctx = x.ctx ∧ g.grid = id ∧ g.core = core ∧ g.state = .resident ∧ g.vcyc = 0 ∧
        g.shbytes = recShared x.words ∧ g.strands.length = (strandRoles x.words).length ∧
        (∀ (j role : Nat), (strandRoles x.words)[j]? = some role → ∃ st, g.strands[j]? = some st ∧ st.role = role ∧
          st.pc = BitVec.ofNat 64 (recWord x.words 0 + roleEntry x.words role) ∧ st.em = 0xFFFFFFFF ∧ st.live = 0xFFFFFFFF ∧
          st.slot / 8 = j % 8 ∧ st.handler = none ∧ st.wait = none ∧ st.active = false) ∧
        readS g 1008 = BitVec.ofNat 32 x.gridid ∧ readS g 1009 = 0 ∧ readS g 1022 = BitVec.ofNat 32 core ∧ readS g 1023 = 0)) ∧
    (∀ (gid : Nat) (g : Group), getGroup s gid = some g →
      (g.finished = false → exec (.groupEnd gid) s = .next s) ∧
      (g.finished = true → g.build = none → g.grid = id →
        (∀ e ∈ (getCore s g.core).cleats, e.2.owner = some gid → e.2.arrivals = []) → ∃ t, exec (.groupEnd gid) s = .next t ∧ getGroup t gid = none ∧ t.mem = s.mem ∧
        (∀ k, k ≠ gid → getGroup t k = getGroup s k) ∧ getGrid t id = some { x with
          endedGroups := x.endedGroups + 1,
          state := if x.state = .placed ∧ x.endedGroups + 1 = recGroups x.words then .ending else x.state })) ∧
    (x.state ≠ .ending → x.state ≠ .refused → exec (.gridCompletionStep id) s = .next s) ∧
    (x.state = .ending ∨ x.state = .refused → recIrq x.words = false →
      let gone := fun (s : State) =>
        { s with grids := s.grids.filter fun y => y.id != id, reservations := s.reservations.filter fun r => r.grid != id }
      (recWord x.words 14 = 0 → exec (.gridCompletionStep id) s = .next (gone s)) ∧
      (∀ pa pl, recWord x.words 14 ≠ 0 → checkSys s c .atomic (recWord x.words 14) 8 = .ok pa pl → isPoisoned s pa = false →
        Memory.wf s.mem = true → (∀ l ∈ s.l2, l.tile = none) → ∃ t, exec (.gridCompletionStep id) s = .next t ∧ getGrid t id = none ∧ t.groups = s.groups ∧
          let old := readNat s.mem pa 8
          readNat t.mem pa 8 = (old + 1) % 2 ^ 63 + (if x.state = .refused ∨ 2 ^ 63 ≤ old then 2 ^ 63 else 0) ∧
          ∀ a, a < pa ∨ pa + 8 ≤ a → readByte t.mem a = readByte s.mem a))

/-- A context's slice expires after TSLICE; a group that is to stop is saved once its strands and its Capstan are at boundaries, with
all its state, and is resumed with it; a JOIN or a tile waited for JOINSPIN clocks converts its group to a waiter, or is held and
tried again where no save slot is free; a masked
handler that delays a pre-emption beyond PREGRACE ends the context; a halted group holds its core until it resumes (R340, R345, R445 to
R450, R454). That a saved strand keeps its wait until it resumes, and that a gang is saved in one step, are the model's own (logs
90, 74). -/
def Obligations.GroupScheduling : Prop :=
  (∀ (s : State) (c : Ctx) (id : Nat), getCtx s id = some c →
    let n := c.tslice.toNat % 2 ^ 24
    (n = 0 ∨ c.sliceStart = none ∨ (∃ t, c.sliceStart = some t ∧ s.clock < t + 1024 * n) ∨ (∃ g ∈ s.groups, g.ctx = id ∧ g.state = .halted) →
      exec (.timeSliceExpiry id) s = .next s) ∧
    (∀ t, n ≠ 0 → c.sliceStart = some t → t + 1024 * n ≤ s.clock → (∀ g ∈ s.groups, g.ctx = id → g.state ≠ .halted) →
      exec (.timeSliceExpiry id) s = .next (putCtx s { c with expired := true }))) ∧
  (∀ (s : State) (gid : Nat) (g : Group) (c : Ctx), getGroup s gid = some g → getCtx s g.ctx = some c → g.state = .resident →
    (s.groups.filter fun x => sameGang x g) = [g] →
    let held := fun (t : State) (st : GState) => ∃ g', getGroup t gid = some g' ∧ g'.state = st ∧ g'.regs = g.regs ∧ g'.sregs = g.sregs ∧
      g'.shared = g.shared ∧ g'.owner = g.owner ∧ g'.vcyc = g.vcyc ∧ g'.score = g.score ∧ g'.paths = g.paths ∧ g'.strands.length = g.strands.length
    let asked := fun (i : Instr) (f : Future) => ∃ t g', exec i s = .next t ∧ getGroup t gid = some g' ∧
      ((g'.state = .saved ∧ g'.future = f ∧ g'.ready = none) ∨
        (g'.state = .resident ∧ g'.stopReq = some { future := f, since := s.clock } ∧ g'.strands = g.strands))
    (∀ r, g.stopReq = some r → r.halt = false → g.pendingL = [] →
      (groupStopped s g = true → r.rewind = false → regionWaits s g = false → ∃ t, exec (.preemption gid) s = .next t ∧ held t .saved ∧
        ∃ g', getGroup t gid = some g' ∧ g'.strands = g.strands ∧ g'.stopReq = none ∧ g'.future = r.future) ∧
      (groupStopped s g = false → exec (.preemption gid) s = .next s)) ∧
    (g.stopReq = none → mustPreempt s g = false → exec (.preemption gid) s = .next s) ∧
    (g.stopReq = none → g.convTry = none → ∀ (j : Nat) (v : View), viewOf s gid j 0 0 = some v →
      (∀ pd addr val since len bs, v.st.wait = some { kind := .join pd addr val, since, len } → readSys s c .load addr 8 = .bytes bs →
        (s.clock < since + c.joinspin.toNat ∨ val % 2 ^ 63 ≤ leNat bs % 2 ^ 63 → exec (.joinSwapOut gid j) s = .next s) ∧
        (since + c.joinspin.toNat ≤ s.clock → leNat bs % 2 ^ 63 < val % 2 ^ 63 → 1 ≤ saveRoom s c → g.pendingL = [] →
          asked (.joinSwapOut gid j) (.counter addr val)))) ∧
    (g.stopReq = none → g.convTry = none →
      (convertingWait s c g = none → exec (.waiterConversion gid) s = .next s) ∧
      (∀ va rw, convertingWait s c g = some (.tile va, rw) →
        (1 ≤ saveRoom s c → g.pendingL = [] → asked (.waiterConversion gid) (.tile va)) ∧
        (saveRoom s c = 0 → exec (.waiterConversion gid) s = .next (putGroup s { g with convTry := some (s.clock, false) }))) ∧
      (∀ (st : Strand) va since len, g.strands = [st] → g.cap = none → st.acc = [] → st.chainFault = none →
        st.wait = some { kind := .tile va, since, len } → tileUnready s c va ≠ none →
        (s.clock < since + c.joinspin.toNat → exec (.waiterConversion gid) s = .next s) ∧
        (since + c.joinspin.toNat ≤ s.clock → 1 ≤ saveRoom s c → g.pendingL = [] → asked (.waiterConversion gid) (.tile va)))) ∧
    (∀ t ring, g.convTry = some (t, ring) → s.clock < t + 4096 → saveRoom s c = 0 ∨ ring = true → exec (.conversionRetry gid) s = .next s) ∧
    (∀ t ring (st : Strand) va since len, g.convTry = some (t, ring) → (ring = true → t + 4096 ≤ s.clock) → g.stopReq = none →
      g.strands = [st] → g.cap = none → st.acc = [] → st.chainFault = none → st.wait = some { kind := .tile va, since, len } →
      tileUnready s c va ≠ none → since + c.joinspin.toNat ≤ s.clock → 1 ≤ saveRoom s c → g.pendingL = [] →
      asked (.conversionRetry gid) (.tile va)) ∧
    (∀ r, g.stopReq = some r → s.clock ≤ r.since + Config.clocksPerMicrosecond * c.pregrace.toNat →
      exec (.pregraceExpiry gid) s = .next s) ∧
    (∀ r (j : Nat) (st : Strand) (hd : Handler), g.stopReq = some r → r.halt = false → r.since + Config.clocksPerMicrosecond * c.pregrace.toNat < s.clock →
      g.strands[j]? = some st → st.handler = some hd → hd.masked = true → st.pdone = false →
      ∃ t c', exec (.pregraceExpiry gid) s = .next t ∧ getCtx t g.ctx = some c' ∧ c'.ended = some 0x17) ∧
    (g.stopReq = none → groupStopped s { g with stopReq := some { future := .none, since := s.clock, halt := true } } = true →
      ∃ t, exec (.debugHalt gid) s = .next t ∧ held t .halted)) ∧
  (∀ (s : State) (gid : Nat) (g : Group) (c : Ctx), getGroup s gid = some g → getCtx s g.ctx = some c → g.state = .halted →
    exec (.debugHalt gid) s = .next s ∧
    ∃ t g', exec (.debugResume gid) s = .next t ∧ getGroup t gid = some g' ∧ g'.state = .resident ∧ g'.stopReq = none ∧ g'.regs = g.regs ∧
      g'.sregs = g.sregs ∧ g'.strands.map (·.pc) = g.strands.map (·.pc) ∧ t.mem = s.mem) ∧
  (∀ (s : State) (gid core : Nat) (g : Group), getGroup s gid = some g → g.state = .saved → s.reservations = [] →
    workList s = [.gang g] → gangSlots s g = [some g] → findCores s (Work.want s (.gang g)) = some [core] →
    ∃ t g', exec (.groupResume gid) s = .next t ∧ getGroup t gid = some g' ∧ g'.state = .resident ∧ g'.core = core ∧ g'.regs = g.regs ∧
      g'.sregs = g.sregs ∧ g'.shared = g.shared ∧ g'.owner = g.owner ∧ g'.vcyc = g.vcyc ∧ g'.snaps = g.snaps ∧
      g'.strands.map (·.pc) = g.strands.map (·.pc) ∧ g'.strands.map (·.em) = g.strands.map (·.em) ∧ t.mem = s.mem)

/-! ### Outside the cores -/

/-- What a host may do: reads and writes of HBM4E inside its windows, resolving a pager request, invalidating translations,
ending a context, IRQPEND, EVTPEND and IRQMASK, the KV registers while nothing of the tenant is resident, attestation, EVTVEC,
IRQADDR, PGBASE, PGHEAD, INVLO and INVHI of its window, and CECNT, PERFSEL, TEN and PWLIM of the management window; what goes to a
tenant's host names its port (R317, R375, R376, R382, R432, R451 to R457, R461). That an access partly outside DIEWIN is discarded
whole, and that a KV register keeps its width and has no further limit, are the model's own (logs 78, 80). -/
def Obligations.HostInterface : Prop :=
  ∀ (s : State) (t : Nat), s.boot = 2 → t < 16 →
    let x := getTenant s t
    let sets := fun (i : Instr) (y : Tenant) => exec i s = .next (putTenant s t y)
    (∀ (pa len : Nat) (bulk : Bool), ∃ bs : List Byte,
      exec (.hostMemoryRead t pa len bulk) s = .next { s with outbox := s.outbox ++ [.hostRead t x.hport pa bs], free := s.free + len } ∧ bs.length = len ∧
      (inDiewin s t pa len = false → ∀ b ∈ bs, b = 0xFF) ∧
      (inDiewin s t pa len = true → bulk = false → ∀ k, k < len → isPoisoned s (pa + k) = false → bs[k]? = some (readByte s.mem (pa + k)))) ∧
    (∀ (pa : Nat) (bytes : List Byte),
      (inDiewin s t pa bytes.length = false → exec (.hostMemoryWrite t pa bytes) s = .next s) ∧
      (inDiewin s t pa bytes.length = true → Memory.wf s.mem = true → (∀ k, k < bytes.length → isPoisoned s (pa + k) = false) →
        ∃ r, exec (.hostMemoryWrite t pa bytes) s = .next r ∧ r.groups = s.groups ∧ Memory.wf r.mem = true ∧
          (∀ (k : Nat) (b : Byte), bytes[k]? = some b → readByte r.mem (pa + k) = b) ∧
          ∀ a, a < pa ∨ pa + bytes.length ≤ a → readByte r.mem a = readByte s.mem a)) ∧
    (∀ number : Word,
      ((∀ p ∈ x.pgopen, p.number ≠ number.toNat) → exec (.pgdoneWrite t number) s = .next s) ∧
      (∀ p, (x.pgopen.find? fun p => p.number == number.toNat) = some p → ∃ r, exec (.pgdoneWrite t number) s = .next r ∧
        (getTenant r t).pgopen = x.pgopen.filter (fun o => o.number != number.toNat) ∧
        ∀ (k : Nat) (g : Group), getGroup s k = some g → g.ctx = p.ctx → g.future = .pager p.number → g.ready = none →
          getGroup r k = some { g with ready := some s.clock })) ∧
    (∀ ctxid : Nat,
      (ctxOf s t ctxid = none → exec (.ctxcmdInvalidate t ctxid) s = .next s ∧ exec (.ctxcmdWatchdog t ctxid) s = .next s) ∧
      (∀ c, ctxOf s t ctxid = some c →
        (x.cmdbusy = none → sets (.ctxcmdInvalidate t ctxid) { x with cmdbusy := some c.id } ∧
          ∃ r c', exec (.ctxcmdWatchdog t ctxid) s = .next r ∧ getCtx r c.id = some c' ∧ c'.ended = some 0x19 ∧
            ∀ g ∈ r.groups, g.ctx ≠ c.id) ∧
        (x.cmdbusy ≠ none → exec (.ctxcmdWatchdog t ctxid) s = .next s))) ∧
    (x.cmdbusy = none → exec (.invalidationComplete t) s = .next s) ∧
    (∀ id, x.cmdbusy = some id →
      (usesOld s x id = true → exec (.invalidationComplete t) s = .next s) ∧
      (usesOld s x id = false → ∃ r, exec (.invalidationComplete t) s = .next r ∧ getTenant r t = { x with cmdbusy := none } ∧ r.mem = s.mem ∧
        ∀ core, (getCore r core).tlb = (getCore s core).tlb.filter fun e => !(e.ctx == id && inRange x e.base (match e.leaf with
          | .leaf _ true _ _ _ _ _ => 2097152
          | _ => 65536)))) ∧
    (∀ bits : DWord, sets (.irqpendClear t bits) { x with irqpend := x.irqpend &&& ~~~bits }) ∧
    (∀ bits : BitVec 3, sets (.evtpendClear t bits) { x with evtpend := x.evtpend &&& ~~~bits }) ∧
    (∀ v : DWord, ((∀ k, k < 64 → x.irqmask.getLsbD k = true → v.getLsbD k = false → x.irqpend.getLsbD k = false) →
        sets (.irqmaskWrite t v) { x with irqmask := v }) ∧
      (∀ k, k < 64 → x.irqmask.getLsbD k = true → v.getLsbD k = false → x.irqpend.getLsbD k = true →
        ∃ r, exec (.irqmaskWrite t v) s = .next r ∧ (OutMsg.irq t x.hport x.irqaddr (t * 256 + k)) ∈ r.outbox)) ∧
    (∀ (ix : Fin 7) (v : DWord),
      (tenantResident s t = true → exec (.kvRegisterWrite t ix v) s = .next s) ∧
      (tenantResident s t = false → sets (.kvRegisterWrite t ix v) { x with kv := x.kv.set ix.val (BitVec.ofNat 64 (v.toNat %
        2 ^ (match ix.val with | 1 => 25 | 3 => 31 | 5 => 5 | 6 => 31 | _ => 64))) })) ∧
    (∀ addr : DWord, (addr.toNat % 64 = 0 → sets (.attestationRequest t addr) { x with attaddr := addr.toNat, attwait := true }) ∧
      (addr.toNat % 64 ≠ 0 → sets (.attestationRequest t addr) x)) ∧
    (x.attwait = false → exec (.attestationReport t) s = .next s) ∧
    (x.attwait = true → ∃ r bs, exec (.attestationReport t) s = .next r ∧ (OutMsg.report t x.hport x.attaddr bs) ∈ r.outbox ∧
      (getTenant r t).attwait = false ∧ ∀ k, 128 ≤ k → k < 160 → bs[k]? = some (BitVec.ofNat 8 (x.nonce.toNat / 2 ^ (8 * (k - 128))))) ∧
    (∀ die : Fin 8, exec (.cecntClear die.val) s = .next { s with cecnt := s.cecnt.set die.val 0 }) ∧
    (∀ (core : Nat) (v : BitVec 128), core < 1024 → exec (.perfselWrite core v) s =
      .next (putCore s core { getCore s core with perfsel := v, perf := Vector.replicate 16 0 })) ∧
    (∀ v : DWord,
      sets (.hostRegisterWrite (some t) 0x158 v) { x with evtvec := v.toNat % 64 } ∧
      (v.toNat % 8 = 0 → v.toNat < 2 ^ 40 → sets (.hostRegisterWrite (some t) 0x140 v) { x with irqaddr := v.toNat }) ∧
      (v.toNat % 4096 = 0 → x.pglog2 = 0 → sets (.hostRegisterWrite (some t) 0x180 v) { x with pgbase := v.toNat }) ∧
      sets (.hostRegisterWrite (some t) 0x198 v) { x with pghead := v.extractLsb' 0 32 } ∧
      sets (.hostRegisterWrite (some t) 0x1C8 v) { x with invlo := v } ∧ sets (.hostRegisterWrite (some t) 0x1D0 v) { x with invhi := v } ∧
      (s.variant ≠ .y2s → x.en = false → sets (.hostRegisterWrite none (8 * t) v)
        { x with en := v.getLsbD 0, hport := (v.getLsbD 1).toNat }) ∧
      (∀ core, core < 1024 → exec (.hostRegisterWrite none (0x2000 + 4 * core) v) s =
        .next (putCore s core { getCore s core with pwlim := v.extractLsb' 0 32 })))

/-- The power governor freezes a core's clock, if nothing has issued in it, where the last 64 clocks' weights exceed its limit, which a
thermal trip lowers to 600;
a reset measures the four images, in order and with the digest of each, up to the first whose signature does not hold, and leaves
the device with empty caches, no context, no grid and every window at its reset values, up with its links training where all four
hold, and down otherwise (R433, R460, R462, R463). What DEVICE_RESET keeps and loses, and links in training after it, are the model's
own (logs 83, 99); the signatures follow FIPS 205 with SHAKE256 of FIPS 202, which the spec names and does not print (logs 82, 144). -/
def Obligations.PowerAndReset : Prop :=
  (∀ s : State, exec .thermalTrip s = .next { s with trip := true } ∧ exec .thermalTripClear s = .next { s with trip := false }) ∧
  (∀ (s : State) (core : Nat),
    let co := getCore s core
    let limit := if s.trip = true ∧ (co.pwlim = 0 ∨ 600 < co.pwlim.toNat) then 600 else co.pwlim.toNat
    let begun := co.weight ≠ 0 ∨ coreIssued s core = true
    (begun → exec (.powerGovernorFreeze core) s = .next s) ∧
    (¬ begun → co.frozen = true ∨ limit = 0 ∨ (co.weights.take 64).sum ≤ limit →
      exec (.powerGovernorFreeze core) s = .next (putCore s core co)) ∧
    (¬ begun → co.frozen = false → limit ≠ 0 → limit < (co.weights.take 64).sum → ∃ co', exec (.powerGovernorFreeze core) s = .next (putCore s core co') ∧
      co'.frozen = true ∧ co'.pwfrz = co.pwfrz + 1 ∧ co'.pwlim = co.pwlim ∧ co'.weights = co.weights)) ∧
  (∀ (s : State) (images : List Image), images.length = 4 → ∃ t, exec (.deviceReset images) s = .next t ∧
    t.l2 = [] ∧ t.poison = [] ∧ t.cores = [] ∧ t.ctxs = [] ∧ t.groups = [] ∧ t.grids = [] ∧ t.dtiles = [] ∧ t.tackles = [] ∧
    t.variant = s.variant ∧ t.trip = false ∧ t.cecnt = Vector.replicate 8 0 ∧ (∀ n, getTenant t n = ({} : Tenant)) ∧
    t.log.length ≤ 4 ∧ (∀ n, n < 4 → (n < t.log.length ↔
      ∀ k i, k ≤ n → images[k]? = some i → signatureHolds carralynKey i.bytes i.signature = true)) ∧
    (∀ n m, t.log[n]? = some m → ∃ i, images[n]? = some i ∧
      m = ({ image := n + 1, version := i.version, digest := BitVec.ofNat 512 (leNat (shake256 i.bytes 64)) } : Measurement)) ∧
    t.boot = (if t.log.length = 4 then 2 else 1) ∧ t.hwlink = Vector.replicate 8 (if t.log.length = 4 then 1 else 0))

/-! ### Issue, the step and the encodings -/

/-- What every strand instruction is held to before its own effect, said of IADD and FADD: IADD does not issue while a V register
that it reads or the predicate of its guard is still to be written or its port is occupied; a V register in a slot that is not mapped raises TILE_NOT_OWNED, a
source word with an uncorrectable error DATA_ERROR, and FADD.f64 on a device without the feature EMULATE (R86, R124, R137, R162,
R270). What every bundle is held to: one that breaks a condition of its header, its ports or a slot raises ILLEGAL_BUNDLE with the bits of
the slots that break one, and no slot commits; a slot that faults leaves the slots before it committed and resumes at itself: an
extension operation with EMULATE, a tile that the Capstan does not own with TILE_NOT_OWNED, a CALLS on a full return stack or a RETS on an
empty one with STACK, a copy with bad arguments with QUEUE_FAULT, an access that fails with its own cause (R59, R61 to R64, R82, R83, R85,
R88, R195, R237, R295, R353). -/
def Obligations.IssueChecks : Prop :=
  (∀ (s : State) (v : View) (h : Hd) (d a : VR) (b : BSrc) (f : Fmt), curView s = some v →
     let need := needV .va f [(0, d.val)] [(1, a.val)] b []
     let i := Instr.iadd h f d a b false false false
     let u := v.charge need
     i.wf = true →
     (v.canIssue h need = false → exec i s = .next s) ∧
     (∀ fl ∈ v.st.flights, h.p ∈ fl.p → h.p ≠ 7 → exec i s = .next s) ∧
     (∀ fl ∈ v.st.flights, ∀ w ∈ fl.v, v.st.mapped a.val = true → w.tile = v.st.tileOf a.val → w.reg = a.val % 8 → exec i s = .next s) ∧
     (∀ until_, aget (getCore s v.g.core).busy (v.st.slot / 8 * 4) = some until_ → s.clock < until_ → exec i s = .next s) ∧
     (v.canIssue h need = true →
       (v.st.mapped d.val = false → exec i s = .next (u.trapAt 0x04 b.len (v.st.acting h) (BitVec.ofNat 32 (7 + d.val * 16)) 0)) ∧
       (v.st.mapped d.val = true → v.st.mapped a.val = false →
         exec i s = .next (u.trapAt 0x04 b.len (v.st.acting h) (BitVec.ofNat 32 (7 + a.val * 16 + 1 * 8192)) 0)) ∧
       (v.st.mapped d.val = true → v.st.mapped a.val = true → b.notV = true → ∀ lane, lane < 32 → (v.st.acting h).getLsbD lane = true →
         v.g.badWords = [regKey (v.st.tileOf a.val) (a.val % 8) lane] → ∃ lanes : Word,
           (∀ k, k < 32 → (lanes.getLsbD k = true ↔ k = lane)) ∧
           exec i s = .next (u.trapAt 0x0A b.len lanes (BitVec.ofNat 32 (5 + v.g.core / 128 % 8 * 16 + v.st.tileOf a.val * 128)) 0))) ∧
     (∀ (n : BSrc), s.variant = .y2s → (Instr.fadd h .f64 .rn {} d a n).wf = true →
       ∀ nd, nd = { needV .va .f64 (vNames .f64 0 d) (vNames .f64 1 a) n [] with f64 := true, occ := 2 } → v.canIssue h nd = true →
       exec (.fadd h .f64 .rn {} d a n) s = .next ((v.charge nd).trapAfter 0x03 n.len (v.st.acting h) 0))) ∧
  (∀ (s : State) (v : CapView) (b : Bundle), CapFree s v →
    let portsAt := fun (ix : Nat) => ([b.port0, b.port1, b.port2, b.port3].filter fun p => p.toNat == ix + 1).length
    let clash := fun (i j : Nat) => i ≠ j ∧ present b i = true ∧ present b j = true ∧
      ((∃ x ∈ slotWrites b i, ∃ y ∈ slotWrites b j, x.1 = y.1 ∧ x.2 &&& y.2 ≠ 0) ∨
       ((i = 1 ∧ j = 2 ∨ i = 2 ∧ j = 1) ∧ b.v0.op.toNat < 48 ∧ b.v1.op.toNat < 48 ∧ b.v0.width.toNat < 3 ∧ b.v1.width.toNat < 3 ∧
        1024 < 256 * 2 ^ b.v0.width.toNat + 256 * 2 ^ b.v1.width.toNat))
    let newer := fun (ix : Nat) => slotLb b ix ≠ 0 ∨ isExt b ix = true ∨ (ix = 3 ∧ (b.m.op = 1 ∨ b.m.x ≠ 7)) ∨ (ix = 5 ∧ b.w.op = 2) ∨
      (ix = 6 ∧ b.k.op = 1) ∨ (ix = 8 ∧ b.y.op = 8)
    let breaks := fun (ix : Nat) =>
      (present b ix = true ∧ ((ix ≠ 3 ∧ portsAt ix ≠ aReads b ix) ∨ (b.ver = 0 ∧ newer ix) ∨
        (isExt b ix = false ∧ (opLimit ix ≤ slotOp b ix ∨ fieldsOk b v.g (v.csrWord b) ix = false)) ∨ ∃ j, j < 9 ∧ clash ix j)) ∨
      (present b ix = false ∧ (slotBits b ix ≠ 0 ∨ (ix ≠ 3 ∧ portsAt ix ≠ 0)))
    let illegal := 2 ≤ b.ver.toNat ∨ b.hz ≠ 0 ∨ (∃ p ∈ [b.port0, b.port1, b.port2, b.port3], p = 4 ∨ 9 < p.toNat) ∨ ∃ ix, ix < 9 ∧ breaks ix
    (illegal → ∀ key, v.g.build = some key → exec (.bundleIssue b) s = .next (abortBuild v.put key 0x12 4 2)) ∧
    (illegal → v.g.build = none → ∃ t : CTrap,
      exec (.bundleIssue b) s = .next (CapView.put { v with k := { v.k with traps := [t] } }) ∧
      t.cause = 0x02 ∧ t.compl = false ∧ t.sresume = 0 ∧ t.bpc = v.k.cpc ∧ t.crpc = v.k.cpc ∧ t.npc = nextBundle v.k.cpc ∧
      t.smask < 2 ^ 9 ∧ ∀ ix, ix < 9 → (tbit t.smask (8 - ix) = true ↔ breaks ix)) ∧
    (¬ illegal → v.room b 0 = true → BundleMay s v b)) ∧
  (∀ (s : State) (v : CapView) (b : Bundle), BundleMay s v b → v.g.build = none →
    let next := nextBundle v.k.cpc
    let holds := fun (l : List Nat) => ∀ n ∈ slotIxs, present b n = l.contains n
    let sum := v.k.readA b.s.a.toNat + if b.s.i = 1 then b.s.imm.signExtend 64 else v.k.readA b.s.b.toNat
    let notMine := fun (t : Nat) => v.g.ownerOf t ≠ .capstan
    (∀ ix, ix < 9 → isExt b ix = true → (holds [ix] → StopsAt b s v v.k ix 0x03 0 next) ∧
      (ix ≠ 0 → holds [0, ix] → (b.s.op = 0 → StopsAt b s v (v.k.writeA b.s.d.toNat sum) ix 0x03 0 next) ∧
        (b.s.op = 11 → b.s.sub = 0 → StopsAt b s v v.k ix 0x03 0 (bundleFrom v.k.cpc b.s.imm.toInt)))) ∧
    (holds [0] → b.s.op = 13 → 8 ≤ v.k.rstk.length → StopsAt b s v v.k 0 0x16 0 next) ∧
    (holds [0] → b.s.op = 14 → v.k.rstk = [] → StopsAt b s v v.k 0 0x16 0 next) ∧
    (∀ ix, ix = 1 ∨ ix = 2 → holds [ix] → isExt b ix = false → notMine (vSlot b ix).dtile.toNat →
      StopsAt b s v v.k ix 0x04 (ownerExtra 8 (vSlot b ix).dtile.toNat) next) ∧
    (holds [4] → b.l.op = 0 ∨ b.l.op = 1 → notMine b.l.dtile.toNat → StopsAt b s v v.k 4 0x04 (ownerExtra 8 b.l.dtile.toNat) next) ∧
    (holds [5] → b.w.op = 0 ∨ b.w.op = 1 → notMine b.w.stile.toNat → StopsAt b s v v.k 5 0x04 (ownerExtra 8 b.w.stile.toNat) next) ∧
    (let r := fun n => v.k.readA n
     let a : CopyArgs := { g := b.c.op == 1, path := b.c.path.toNat, dst := (r b.c.dst.toNat).toNat, src := (r b.c.src.toNat).toNat,
                           len := (r b.c.len.toNat).toNat % 2 ^ 32, shape := r b.c.shape.toNat, flags := b.c.flags.zeroExtend 32 }
     ∀ reason, holds [7] → b.c.op = 0 ∨ b.c.op = 1 → a.fault v.g = some reason → StopsAt b s v v.k 7 0x18 (BitVec.ofNat 32 reason) next) ∧
    (let u := v.begun b
     ∀ cause lanes extra addr, holds [6] → b.k.op = 0 → judgeGlobal u.s u.c u.g u.k.acc u.k.walked u.k.chainFault [{
        lane := 0, addr := u.k.addr b.k.base.toNat 14 b.k.off.toNat, len := 64, align := 64, use := .load }] = .trap cause lanes extra addr →
      cause ≠ 0x03 → StopsAt b s v v.k 6 cause extra next))

/-- A step runs the instruction whose words stand at the PC of the strand that acts: it is exec of the decoded instruction; words
that decode to none raise ILLEGAL_OPCODE; a Capstan's step runs its bundle, an event's the event (R56, R62, R239, R240). The
agenda is the model's own (log 7). -/
def Obligations.StepRunsDecoded : Prop :=
  (∀ (s : State) (gid j : Nat) (rest : List Act) (v : View), s.agenda = .strand gid j :: rest →
    viewOf { s with agenda := rest } gid j 0 0 = some v → v.st.wait = none → v.awake = true → ∀ (w0 w1 : DWord),
      (∀ pa pl, checkSys s v.c .fetch v.st.pc.toNat 8 = .ok pa pl → isPoisoned s pa = false → readNat s.mem pa 8 = w0.toNat →
        longForm w0 = false → fetchWords s v.c v.st.pc.toNat = .words w0 0) ∧
      (fetchWords s v.c v.st.pc.toNat = .words w0 w1 →
        let t := { s with agenda := rest, cur := some { agent := .strand gid j, iw0 := w0, iw1 := w1 } }
        (∀ i, decodeWords w0 w1 = .ok i → step s = exec i t) ∧
        (∀ e u, decodeWords w0 w1 = .error e → curView t = some u → u.canIssue (fieldsOf w0 0).hd { port := .ctl, len := wordBytes w0 } = true →
          step s = .next ((u.charge { port := .ctl, len := wordBytes w0 }).trapAt 0x01 (wordBytes w0) (u.st.acting (fieldsOf w0 0).hd) 0 0)))) ∧
  (∀ (s : State) (gid : Nat) (rest : List Act) (v : CapView) (b : Bundle), s.agenda = .capstan gid :: rest →
    capViewOf { s with agenda := rest } gid = some v → v.awake = true → v.k.part = none → v.k.poisonedSnap = false → slc v.k.cpc = true →
    v.k.sld = [] → v.g.badSlice = [] → b = decodeBundle (BitVec.ofNat 512 (readNat v.k.slice (64 * sliceIx v.k.cpc) 64)) →
      step s = exec (.bundleIssue b) { s with agenda := rest, cur := some { agent := .capstan gid } }) ∧
  (∀ (s : State) (i : Instr) (rest : List Act), s.agenda = .event i :: rest → step s = exec i { s with agenda := rest })

/-- The bits of eleven words written out from the spec's encoding of them decode to the instructions they stand for, or to none (R49 to R52, R60,
R78 to R80). -/
def Obligations.SpecWordsDecode : Prop :=
  decodeTableWord 64 0x01730A022C005000 = some (.iadd { p := 3 } .i32 10 2 (.s 300) false false false) ∧
  decodeTableWord 64 0x30D70A0204000000 = some (.fadd {} .f64 .rn {} 10 2 (.v 4)) ∧
  decodeTableWord 64 0x22E7090201058200 = some (.shfl {} .down 9 2 (.imm8 1) 5) ∧
  decodeTableWord 64 0x2977BC58030A8000 = some (.ualu {} .i32 .add false 700 600 (.imm8 3)) ∧
  decodeTableWord 64 0x60E70A0202100A00 = some (.ld {} .b32 false false 10 (.s 2) (.v 2) 0x10) ∧
  decodeTableWord 64 0x66770504010608E0 = some (.atom {} .add .i32 .acqrel .dev 5 (.s 4) (.v 1) 6) ∧
  decodeTableWord 64 0xD0E7FFFFFFFC0000 = some (.bra {} 0xFFFFFFFC) ∧
  decodeTableWord 64 0xA3E7010A08008000 = some (.join {} 1 10 (.imm8 8)) ∧
  decodeTableWord 64 0xC2E7280800000000 = some (.cntrd {} 40 8) ∧
  decodeTableWord 128 0x000186A001770A0200008008 = some (.iadd {} .i32 10 2 (.imm32 100000) false false false) ∧
  decodeTableWord 64 0x30D70A0203000000 = none

/-- Decoding the words of a well-formed strand instruction gives it back, whatever its operands are (R49 to R56, R78, R79). -/
def Obligations.StrandRoundTrip : Prop :=
  ∀ (i : Instr) (w0 w1 : DWord), i.wf = true → encode i = some (w0, w1) → decodeWords w0 w1 = .ok i

/-- A bundle's 512 bits and its fields determine each other: no bit is dropped (R58, R60). Words that decode to a strand instruction
decode to a well-formed one (R56). -/
def Obligations.BundleRoundTrip : Prop :=
  (∀ b : Bundle, decodeBundle (encodeBundle b) = b) ∧ (∀ w : BitVec 512, encodeBundle (decodeBundle w) = w) ∧
  ∀ (w0 w1 : DWord) (i : Instr), decodeWords w0 w1 = .ok i → i.wf = true

/-- Every step keeps the memory's canonical form: addresses strictly rising, and no entry equal to what an unlisted byte reads as. -/
def Obligations.StepKeepsMemory : Prop :=
  ∀ s t : State, Memory.wf s.mem = true → step s = .next t → Memory.wf t.mem = true

/-- After reset the memory has its canonical form, the caches and the poison table are empty, no queue is enabled, every vector is
masked and EVTVEC is 63, and no context, group or grid is there (R453, R463). -/
def Obligations.ResetState : Prop :=
  let s := State.reset
  Memory.wf s.mem = true ∧ s.l2 = [] ∧ s.poison = [] ∧ s.cores = [] ∧ s.ctxs = [] ∧ s.groups = [] ∧ s.grids = [] ∧
  (∀ t q : Nat, (getQueue s t q).en = false) ∧
  (∀ t : Nat, (getTenant s t).irqmask = 0xFFFFFFFFFFFFFFFF ∧ (getTenant s t).evtvec = 63 ∧ (getTenant s t).en = false)
end

