-- ==== Sys2Proof/Laws/State.lean ====
section
/-! SUPPORT. One lemma for each field that an update of the state leaves alone, and what finding a part of the state gives
after that part or another was replaced. -/

namespace Sys2Proof.Machine

/-! ### putGroup changes `groups` alone -/

@[simp] theorem putGroup_clock (s : State) (x : Group) : (putGroup s x).clock = s.clock := rfl
@[simp] theorem putGroup_variant (s : State) (x : Group) : (putGroup s x).variant = s.variant := rfl
@[simp] theorem putGroup_boot (s : State) (x : Group) : (putGroup s x).boot = s.boot := rfl
@[simp] theorem putGroup_log (s : State) (x : Group) : (putGroup s x).log = s.log := rfl
@[simp] theorem putGroup_mem (s : State) (x : Group) : (putGroup s x).mem = s.mem := rfl
@[simp] theorem putGroup_l2 (s : State) (x : Group) : (putGroup s x).l2 = s.l2 := rfl
@[simp] theorem putGroup_l2ptr (s : State) (x : Group) : (putGroup s x).l2ptr = s.l2ptr := rfl
@[simp] theorem putGroup_poison (s : State) (x : Group) : (putGroup s x).poison = s.poison := rfl
@[simp] theorem putGroup_fresh (s : State) (x : Group) : (putGroup s x).fresh = s.fresh := rfl
@[simp] theorem putGroup_held (s : State) (x : Group) : (putGroup s x).held = s.held := rfl
@[simp] theorem putGroup_fabricIn (s : State) (x : Group) : (putGroup s x).fabricIn = s.fabricIn := rfl
@[simp] theorem putGroup_dtiles (s : State) (x : Group) : (putGroup s x).dtiles = s.dtiles := rfl
@[simp] theorem putGroup_cecnt (s : State) (x : Group) : (putGroup s x).cecnt = s.cecnt := rfl
@[simp] theorem putGroup_hwlink (s : State) (x : Group) : (putGroup s x).hwlink = s.hwlink := rfl
@[simp] theorem putGroup_trip (s : State) (x : Group) : (putGroup s x).trip = s.trip := rfl
@[simp] theorem putGroup_tenants (s : State) (x : Group) : (putGroup s x).tenants = s.tenants := rfl
@[simp] theorem putGroup_ctxs (s : State) (x : Group) : (putGroup s x).ctxs = s.ctxs := rfl
@[simp] theorem putGroup_cores (s : State) (x : Group) : (putGroup s x).cores = s.cores := rfl
@[simp] theorem putGroup_grids (s : State) (x : Group) : (putGroup s x).grids = s.grids := rfl
@[simp] theorem putGroup_builds (s : State) (x : Group) : (putGroup s x).builds = s.builds := rfl
@[simp] theorem putGroup_nextChain (s : State) (x : Group) : (putGroup s x).nextChain = s.nextChain := rfl
@[simp] theorem putGroup_tackles (s : State) (x : Group) : (putGroup s x).tackles = s.tackles := rfl
@[simp] theorem putGroup_reservations (s : State) (x : Group) : (putGroup s x).reservations = s.reservations := rfl
@[simp] theorem putGroup_lastDie (s : State) (x : Group) : (putGroup s x).lastDie = s.lastDie := rfl
@[simp] theorem putGroup_lastCore (s : State) (x : Group) : (putGroup s x).lastCore = s.lastCore := rfl
@[simp] theorem putGroup_lastQueue (s : State) (x : Group) : (putGroup s x).lastQueue = s.lastQueue := rfl
@[simp] theorem putGroup_nextGid (s : State) (x : Group) : (putGroup s x).nextGid = s.nextGid := rfl
@[simp] theorem putGroup_nextSeq (s : State) (x : Group) : (putGroup s x).nextSeq = s.nextSeq := rfl
@[simp] theorem putGroup_agenda (s : State) (x : Group) : (putGroup s x).agenda = s.agenda := rfl
@[simp] theorem putGroup_cur (s : State) (x : Group) : (putGroup s x).cur = s.cur := rfl
@[simp] theorem putGroup_free (s : State) (x : Group) : (putGroup s x).free = s.free := rfl
@[simp] theorem putGroup_outbox (s : State) (x : Group) : (putGroup s x).outbox = s.outbox := rfl

/-! ### putCtx changes `ctxs` alone -/

@[simp] theorem putCtx_clock (s : State) (x : Ctx) : (putCtx s x).clock = s.clock := rfl
@[simp] theorem putCtx_variant (s : State) (x : Ctx) : (putCtx s x).variant = s.variant := rfl
@[simp] theorem putCtx_boot (s : State) (x : Ctx) : (putCtx s x).boot = s.boot := rfl
@[simp] theorem putCtx_log (s : State) (x : Ctx) : (putCtx s x).log = s.log := rfl
@[simp] theorem putCtx_mem (s : State) (x : Ctx) : (putCtx s x).mem = s.mem := rfl
@[simp] theorem putCtx_l2 (s : State) (x : Ctx) : (putCtx s x).l2 = s.l2 := rfl
@[simp] theorem putCtx_l2ptr (s : State) (x : Ctx) : (putCtx s x).l2ptr = s.l2ptr := rfl
@[simp] theorem putCtx_poison (s : State) (x : Ctx) : (putCtx s x).poison = s.poison := rfl
@[simp] theorem putCtx_fresh (s : State) (x : Ctx) : (putCtx s x).fresh = s.fresh := rfl
@[simp] theorem putCtx_held (s : State) (x : Ctx) : (putCtx s x).held = s.held := rfl
@[simp] theorem putCtx_fabricIn (s : State) (x : Ctx) : (putCtx s x).fabricIn = s.fabricIn := rfl
@[simp] theorem putCtx_dtiles (s : State) (x : Ctx) : (putCtx s x).dtiles = s.dtiles := rfl
@[simp] theorem putCtx_cecnt (s : State) (x : Ctx) : (putCtx s x).cecnt = s.cecnt := rfl
@[simp] theorem putCtx_hwlink (s : State) (x : Ctx) : (putCtx s x).hwlink = s.hwlink := rfl
@[simp] theorem putCtx_trip (s : State) (x : Ctx) : (putCtx s x).trip = s.trip := rfl
@[simp] theorem putCtx_tenants (s : State) (x : Ctx) : (putCtx s x).tenants = s.tenants := rfl
@[simp] theorem putCtx_cores (s : State) (x : Ctx) : (putCtx s x).cores = s.cores := rfl
@[simp] theorem putCtx_grids (s : State) (x : Ctx) : (putCtx s x).grids = s.grids := rfl
@[simp] theorem putCtx_groups (s : State) (x : Ctx) : (putCtx s x).groups = s.groups := rfl
@[simp] theorem putCtx_builds (s : State) (x : Ctx) : (putCtx s x).builds = s.builds := rfl
@[simp] theorem putCtx_nextChain (s : State) (x : Ctx) : (putCtx s x).nextChain = s.nextChain := rfl
@[simp] theorem putCtx_tackles (s : State) (x : Ctx) : (putCtx s x).tackles = s.tackles := rfl
@[simp] theorem putCtx_reservations (s : State) (x : Ctx) : (putCtx s x).reservations = s.reservations := rfl
@[simp] theorem putCtx_lastDie (s : State) (x : Ctx) : (putCtx s x).lastDie = s.lastDie := rfl
@[simp] theorem putCtx_lastCore (s : State) (x : Ctx) : (putCtx s x).lastCore = s.lastCore := rfl
@[simp] theorem putCtx_lastQueue (s : State) (x : Ctx) : (putCtx s x).lastQueue = s.lastQueue := rfl
@[simp] theorem putCtx_nextGid (s : State) (x : Ctx) : (putCtx s x).nextGid = s.nextGid := rfl
@[simp] theorem putCtx_nextSeq (s : State) (x : Ctx) : (putCtx s x).nextSeq = s.nextSeq := rfl
@[simp] theorem putCtx_agenda (s : State) (x : Ctx) : (putCtx s x).agenda = s.agenda := rfl
@[simp] theorem putCtx_cur (s : State) (x : Ctx) : (putCtx s x).cur = s.cur := rfl
@[simp] theorem putCtx_free (s : State) (x : Ctx) : (putCtx s x).free = s.free := rfl
@[simp] theorem putCtx_outbox (s : State) (x : Ctx) : (putCtx s x).outbox = s.outbox := rfl

/-! ### putCore changes `cores` alone -/

@[simp] theorem putCore_clock (s : State) (n : Nat) (x : Core) : (putCore s n x).clock = s.clock := rfl
@[simp] theorem putCore_variant (s : State) (n : Nat) (x : Core) : (putCore s n x).variant = s.variant := rfl
@[simp] theorem putCore_boot (s : State) (n : Nat) (x : Core) : (putCore s n x).boot = s.boot := rfl
@[simp] theorem putCore_log (s : State) (n : Nat) (x : Core) : (putCore s n x).log = s.log := rfl
@[simp] theorem putCore_mem (s : State) (n : Nat) (x : Core) : (putCore s n x).mem = s.mem := rfl
@[simp] theorem putCore_l2 (s : State) (n : Nat) (x : Core) : (putCore s n x).l2 = s.l2 := rfl
@[simp] theorem putCore_l2ptr (s : State) (n : Nat) (x : Core) : (putCore s n x).l2ptr = s.l2ptr := rfl
@[simp] theorem putCore_poison (s : State) (n : Nat) (x : Core) : (putCore s n x).poison = s.poison := rfl
@[simp] theorem putCore_fresh (s : State) (n : Nat) (x : Core) : (putCore s n x).fresh = s.fresh := rfl
@[simp] theorem putCore_held (s : State) (n : Nat) (x : Core) : (putCore s n x).held = s.held := rfl
@[simp] theorem putCore_fabricIn (s : State) (n : Nat) (x : Core) : (putCore s n x).fabricIn = s.fabricIn := rfl
@[simp] theorem putCore_dtiles (s : State) (n : Nat) (x : Core) : (putCore s n x).dtiles = s.dtiles := rfl
@[simp] theorem putCore_cecnt (s : State) (n : Nat) (x : Core) : (putCore s n x).cecnt = s.cecnt := rfl
@[simp] theorem putCore_hwlink (s : State) (n : Nat) (x : Core) : (putCore s n x).hwlink = s.hwlink := rfl
@[simp] theorem putCore_trip (s : State) (n : Nat) (x : Core) : (putCore s n x).trip = s.trip := rfl
@[simp] theorem putCore_tenants (s : State) (n : Nat) (x : Core) : (putCore s n x).tenants = s.tenants := rfl
@[simp] theorem putCore_ctxs (s : State) (n : Nat) (x : Core) : (putCore s n x).ctxs = s.ctxs := rfl
@[simp] theorem putCore_grids (s : State) (n : Nat) (x : Core) : (putCore s n x).grids = s.grids := rfl
@[simp] theorem putCore_groups (s : State) (n : Nat) (x : Core) : (putCore s n x).groups = s.groups := rfl
@[simp] theorem putCore_builds (s : State) (n : Nat) (x : Core) : (putCore s n x).builds = s.builds := rfl
@[simp] theorem putCore_nextChain (s : State) (n : Nat) (x : Core) : (putCore s n x).nextChain = s.nextChain := rfl
@[simp] theorem putCore_tackles (s : State) (n : Nat) (x : Core) : (putCore s n x).tackles = s.tackles := rfl
@[simp] theorem putCore_reservations (s : State) (n : Nat) (x : Core) : (putCore s n x).reservations = s.reservations := rfl
@[simp] theorem putCore_lastDie (s : State) (n : Nat) (x : Core) : (putCore s n x).lastDie = s.lastDie := rfl
@[simp] theorem putCore_lastCore (s : State) (n : Nat) (x : Core) : (putCore s n x).lastCore = s.lastCore := rfl
@[simp] theorem putCore_lastQueue (s : State) (n : Nat) (x : Core) : (putCore s n x).lastQueue = s.lastQueue := rfl
@[simp] theorem putCore_nextGid (s : State) (n : Nat) (x : Core) : (putCore s n x).nextGid = s.nextGid := rfl
@[simp] theorem putCore_nextSeq (s : State) (n : Nat) (x : Core) : (putCore s n x).nextSeq = s.nextSeq := rfl
@[simp] theorem putCore_agenda (s : State) (n : Nat) (x : Core) : (putCore s n x).agenda = s.agenda := rfl
@[simp] theorem putCore_cur (s : State) (n : Nat) (x : Core) : (putCore s n x).cur = s.cur := rfl
@[simp] theorem putCore_free (s : State) (n : Nat) (x : Core) : (putCore s n x).free = s.free := rfl
@[simp] theorem putCore_outbox (s : State) (n : Nat) (x : Core) : (putCore s n x).outbox = s.outbox := rfl

/-! ### putTenant changes `tenants` alone -/

@[simp] theorem putTenant_clock (s : State) (n : Nat) (x : Tenant) : (putTenant s n x).clock = s.clock := rfl
@[simp] theorem putTenant_variant (s : State) (n : Nat) (x : Tenant) : (putTenant s n x).variant = s.variant := rfl
@[simp] theorem putTenant_boot (s : State) (n : Nat) (x : Tenant) : (putTenant s n x).boot = s.boot := rfl
@[simp] theorem putTenant_log (s : State) (n : Nat) (x : Tenant) : (putTenant s n x).log = s.log := rfl
@[simp] theorem putTenant_mem (s : State) (n : Nat) (x : Tenant) : (putTenant s n x).mem = s.mem := rfl
@[simp] theorem putTenant_l2 (s : State) (n : Nat) (x : Tenant) : (putTenant s n x).l2 = s.l2 := rfl
@[simp] theorem putTenant_l2ptr (s : State) (n : Nat) (x : Tenant) : (putTenant s n x).l2ptr = s.l2ptr := rfl
@[simp] theorem putTenant_poison (s : State) (n : Nat) (x : Tenant) : (putTenant s n x).poison = s.poison := rfl
@[simp] theorem putTenant_fresh (s : State) (n : Nat) (x : Tenant) : (putTenant s n x).fresh = s.fresh := rfl
@[simp] theorem putTenant_held (s : State) (n : Nat) (x : Tenant) : (putTenant s n x).held = s.held := rfl
@[simp] theorem putTenant_fabricIn (s : State) (n : Nat) (x : Tenant) : (putTenant s n x).fabricIn = s.fabricIn := rfl
@[simp] theorem putTenant_dtiles (s : State) (n : Nat) (x : Tenant) : (putTenant s n x).dtiles = s.dtiles := rfl
@[simp] theorem putTenant_cecnt (s : State) (n : Nat) (x : Tenant) : (putTenant s n x).cecnt = s.cecnt := rfl
@[simp] theorem putTenant_hwlink (s : State) (n : Nat) (x : Tenant) : (putTenant s n x).hwlink = s.hwlink := rfl
@[simp] theorem putTenant_trip (s : State) (n : Nat) (x : Tenant) : (putTenant s n x).trip = s.trip := rfl
@[simp] theorem putTenant_ctxs (s : State) (n : Nat) (x : Tenant) : (putTenant s n x).ctxs = s.ctxs := rfl
@[simp] theorem putTenant_cores (s : State) (n : Nat) (x : Tenant) : (putTenant s n x).cores = s.cores := rfl
@[simp] theorem putTenant_grids (s : State) (n : Nat) (x : Tenant) : (putTenant s n x).grids = s.grids := rfl
@[simp] theorem putTenant_groups (s : State) (n : Nat) (x : Tenant) : (putTenant s n x).groups = s.groups := rfl
@[simp] theorem putTenant_builds (s : State) (n : Nat) (x : Tenant) : (putTenant s n x).builds = s.builds := rfl
@[simp] theorem putTenant_nextChain (s : State) (n : Nat) (x : Tenant) : (putTenant s n x).nextChain = s.nextChain := rfl
@[simp] theorem putTenant_tackles (s : State) (n : Nat) (x : Tenant) : (putTenant s n x).tackles = s.tackles := rfl
@[simp] theorem putTenant_reservations (s : State) (n : Nat) (x : Tenant) : (putTenant s n x).reservations = s.reservations := rfl
@[simp] theorem putTenant_lastDie (s : State) (n : Nat) (x : Tenant) : (putTenant s n x).lastDie = s.lastDie := rfl
@[simp] theorem putTenant_lastCore (s : State) (n : Nat) (x : Tenant) : (putTenant s n x).lastCore = s.lastCore := rfl
@[simp] theorem putTenant_lastQueue (s : State) (n : Nat) (x : Tenant) : (putTenant s n x).lastQueue = s.lastQueue := rfl
@[simp] theorem putTenant_nextGid (s : State) (n : Nat) (x : Tenant) : (putTenant s n x).nextGid = s.nextGid := rfl
@[simp] theorem putTenant_nextSeq (s : State) (n : Nat) (x : Tenant) : (putTenant s n x).nextSeq = s.nextSeq := rfl
@[simp] theorem putTenant_agenda (s : State) (n : Nat) (x : Tenant) : (putTenant s n x).agenda = s.agenda := rfl
@[simp] theorem putTenant_cur (s : State) (n : Nat) (x : Tenant) : (putTenant s n x).cur = s.cur := rfl
@[simp] theorem putTenant_free (s : State) (n : Nat) (x : Tenant) : (putTenant s n x).free = s.free := rfl
@[simp] theorem putTenant_outbox (s : State) (n : Nat) (x : Tenant) : (putTenant s n x).outbox = s.outbox := rfl

/-! ### putGrid changes `grids` alone -/

@[simp] theorem putGrid_clock (s : State) (x : Grid) : (putGrid s x).clock = s.clock := rfl
@[simp] theorem putGrid_variant (s : State) (x : Grid) : (putGrid s x).variant = s.variant := rfl
@[simp] theorem putGrid_boot (s : State) (x : Grid) : (putGrid s x).boot = s.boot := rfl
@[simp] theorem putGrid_log (s : State) (x : Grid) : (putGrid s x).log = s.log := rfl
@[simp] theorem putGrid_mem (s : State) (x : Grid) : (putGrid s x).mem = s.mem := rfl
@[simp] theorem putGrid_l2 (s : State) (x : Grid) : (putGrid s x).l2 = s.l2 := rfl
@[simp] theorem putGrid_l2ptr (s : State) (x : Grid) : (putGrid s x).l2ptr = s.l2ptr := rfl
@[simp] theorem putGrid_poison (s : State) (x : Grid) : (putGrid s x).poison = s.poison := rfl
@[simp] theorem putGrid_fresh (s : State) (x : Grid) : (putGrid s x).fresh = s.fresh := rfl
@[simp] theorem putGrid_held (s : State) (x : Grid) : (putGrid s x).held = s.held := rfl
@[simp] theorem putGrid_fabricIn (s : State) (x : Grid) : (putGrid s x).fabricIn = s.fabricIn := rfl
@[simp] theorem putGrid_dtiles (s : State) (x : Grid) : (putGrid s x).dtiles = s.dtiles := rfl
@[simp] theorem putGrid_cecnt (s : State) (x : Grid) : (putGrid s x).cecnt = s.cecnt := rfl
@[simp] theorem putGrid_hwlink (s : State) (x : Grid) : (putGrid s x).hwlink = s.hwlink := rfl
@[simp] theorem putGrid_trip (s : State) (x : Grid) : (putGrid s x).trip = s.trip := rfl
@[simp] theorem putGrid_tenants (s : State) (x : Grid) : (putGrid s x).tenants = s.tenants := rfl
@[simp] theorem putGrid_ctxs (s : State) (x : Grid) : (putGrid s x).ctxs = s.ctxs := rfl
@[simp] theorem putGrid_cores (s : State) (x : Grid) : (putGrid s x).cores = s.cores := rfl
@[simp] theorem putGrid_groups (s : State) (x : Grid) : (putGrid s x).groups = s.groups := rfl
@[simp] theorem putGrid_builds (s : State) (x : Grid) : (putGrid s x).builds = s.builds := rfl
@[simp] theorem putGrid_nextChain (s : State) (x : Grid) : (putGrid s x).nextChain = s.nextChain := rfl
@[simp] theorem putGrid_tackles (s : State) (x : Grid) : (putGrid s x).tackles = s.tackles := rfl
@[simp] theorem putGrid_reservations (s : State) (x : Grid) : (putGrid s x).reservations = s.reservations := rfl
@[simp] theorem putGrid_lastDie (s : State) (x : Grid) : (putGrid s x).lastDie = s.lastDie := rfl
@[simp] theorem putGrid_lastCore (s : State) (x : Grid) : (putGrid s x).lastCore = s.lastCore := rfl
@[simp] theorem putGrid_lastQueue (s : State) (x : Grid) : (putGrid s x).lastQueue = s.lastQueue := rfl
@[simp] theorem putGrid_nextGid (s : State) (x : Grid) : (putGrid s x).nextGid = s.nextGid := rfl
@[simp] theorem putGrid_nextSeq (s : State) (x : Grid) : (putGrid s x).nextSeq = s.nextSeq := rfl
@[simp] theorem putGrid_agenda (s : State) (x : Grid) : (putGrid s x).agenda = s.agenda := rfl
@[simp] theorem putGrid_cur (s : State) (x : Grid) : (putGrid s x).cur = s.cur := rfl
@[simp] theorem putGrid_free (s : State) (x : Grid) : (putGrid s x).free = s.free := rfl
@[simp] theorem putGrid_outbox (s : State) (x : Grid) : (putGrid s x).outbox = s.outbox := rfl

/-! ### putTackle changes `tackles` alone -/

@[simp] theorem putTackle_clock (s : State) (n : Nat) (x : Tackle) : (putTackle s n x).clock = s.clock := rfl
@[simp] theorem putTackle_variant (s : State) (n : Nat) (x : Tackle) : (putTackle s n x).variant = s.variant := rfl
@[simp] theorem putTackle_boot (s : State) (n : Nat) (x : Tackle) : (putTackle s n x).boot = s.boot := rfl
@[simp] theorem putTackle_log (s : State) (n : Nat) (x : Tackle) : (putTackle s n x).log = s.log := rfl
@[simp] theorem putTackle_mem (s : State) (n : Nat) (x : Tackle) : (putTackle s n x).mem = s.mem := rfl
@[simp] theorem putTackle_l2 (s : State) (n : Nat) (x : Tackle) : (putTackle s n x).l2 = s.l2 := rfl
@[simp] theorem putTackle_l2ptr (s : State) (n : Nat) (x : Tackle) : (putTackle s n x).l2ptr = s.l2ptr := rfl
@[simp] theorem putTackle_poison (s : State) (n : Nat) (x : Tackle) : (putTackle s n x).poison = s.poison := rfl
@[simp] theorem putTackle_fresh (s : State) (n : Nat) (x : Tackle) : (putTackle s n x).fresh = s.fresh := rfl
@[simp] theorem putTackle_held (s : State) (n : Nat) (x : Tackle) : (putTackle s n x).held = s.held := rfl
@[simp] theorem putTackle_fabricIn (s : State) (n : Nat) (x : Tackle) : (putTackle s n x).fabricIn = s.fabricIn := rfl
@[simp] theorem putTackle_dtiles (s : State) (n : Nat) (x : Tackle) : (putTackle s n x).dtiles = s.dtiles := rfl
@[simp] theorem putTackle_cecnt (s : State) (n : Nat) (x : Tackle) : (putTackle s n x).cecnt = s.cecnt := rfl
@[simp] theorem putTackle_hwlink (s : State) (n : Nat) (x : Tackle) : (putTackle s n x).hwlink = s.hwlink := rfl
@[simp] theorem putTackle_trip (s : State) (n : Nat) (x : Tackle) : (putTackle s n x).trip = s.trip := rfl
@[simp] theorem putTackle_tenants (s : State) (n : Nat) (x : Tackle) : (putTackle s n x).tenants = s.tenants := rfl
@[simp] theorem putTackle_ctxs (s : State) (n : Nat) (x : Tackle) : (putTackle s n x).ctxs = s.ctxs := rfl
@[simp] theorem putTackle_cores (s : State) (n : Nat) (x : Tackle) : (putTackle s n x).cores = s.cores := rfl
@[simp] theorem putTackle_grids (s : State) (n : Nat) (x : Tackle) : (putTackle s n x).grids = s.grids := rfl
@[simp] theorem putTackle_groups (s : State) (n : Nat) (x : Tackle) : (putTackle s n x).groups = s.groups := rfl
@[simp] theorem putTackle_builds (s : State) (n : Nat) (x : Tackle) : (putTackle s n x).builds = s.builds := rfl
@[simp] theorem putTackle_nextChain (s : State) (n : Nat) (x : Tackle) : (putTackle s n x).nextChain = s.nextChain := rfl
@[simp] theorem putTackle_reservations (s : State) (n : Nat) (x : Tackle) : (putTackle s n x).reservations = s.reservations := rfl
@[simp] theorem putTackle_lastDie (s : State) (n : Nat) (x : Tackle) : (putTackle s n x).lastDie = s.lastDie := rfl
@[simp] theorem putTackle_lastCore (s : State) (n : Nat) (x : Tackle) : (putTackle s n x).lastCore = s.lastCore := rfl
@[simp] theorem putTackle_lastQueue (s : State) (n : Nat) (x : Tackle) : (putTackle s n x).lastQueue = s.lastQueue := rfl
@[simp] theorem putTackle_nextGid (s : State) (n : Nat) (x : Tackle) : (putTackle s n x).nextGid = s.nextGid := rfl
@[simp] theorem putTackle_nextSeq (s : State) (n : Nat) (x : Tackle) : (putTackle s n x).nextSeq = s.nextSeq := rfl
@[simp] theorem putTackle_agenda (s : State) (n : Nat) (x : Tackle) : (putTackle s n x).agenda = s.agenda := rfl
@[simp] theorem putTackle_cur (s : State) (n : Nat) (x : Tackle) : (putTackle s n x).cur = s.cur := rfl
@[simp] theorem putTackle_free (s : State) (n : Nat) (x : Tackle) : (putTackle s n x).free = s.free := rfl
@[simp] theorem putTackle_outbox (s : State) (n : Nat) (x : Tackle) : (putTackle s n x).outbox = s.outbox := rfl

/-! ### Finding a part after a replacement -/

theorem find_map_same {α : Type} (l : List α) (key : α → Nat) (x : α) (n : Nat) (h : (l.find? fun y => key y == n).isSome)
    (hx : key x = n) : (l.map fun y => if key y == key x then x else y).find? (fun y => key y == n) = some x := by
  induction l with
  | nil => simp at h
  | cons y l ih =>
    by_cases e : key y = n
    · simp [e, hx]
    · simp only [List.find?_cons, beq_iff_eq, e, if_false] at h
      simp only [List.map_cons, List.find?_cons, hx]
      have : (key y == n) = false := by simpa using e
      simp only [this, Bool.false_eq_true, if_false] at h ⊢
      simpa [hx] using ih h

theorem find_map_other {α : Type} (l : List α) (key : α → Nat) (x : α) (n : Nat) (hx : key x ≠ n) :
    (l.map fun y => if key y == key x then x else y).find? (fun y => key y == n) = l.find? fun y => key y == n := by
  induction l with
  | nil => rfl
  | cons y l ih =>
    simp only [List.map_cons, List.find?_cons]
    by_cases e : key y = key x
    · have h1 : (key x == n) = false := by simpa using hx
      simp only [e, beq_self_eq_true, if_true, h1, ih]
    · have h1 : (key y == key x) = false := by simpa using e
      simp only [h1, Bool.false_eq_true, if_false, ih]

theorem getGroup_gid {s : State} {k : Nat} {g : Group} (h : getGroup s k = some g) : g.gid = k := by
  simpa using List.find?_some h

theorem getCtx_id {s : State} {k : Nat} {c : Ctx} (h : getCtx s k = some c) : c.id = k := by
  simpa using List.find?_some h

theorem getGroup_putGroup_same (s : State) (g : Group) (h : (getGroup s g.gid).isSome) : getGroup (putGroup s g) g.gid = some g :=
  find_map_same s.groups Group.gid g g.gid h rfl

theorem getGroup_putGroup_other (s : State) (g : Group) (k : Nat) (h : k ≠ g.gid) : getGroup (putGroup s g) k = getGroup s k :=
  find_map_other s.groups Group.gid g k h.symm

theorem getCtx_putCtx_same (s : State) (c : Ctx) (h : (getCtx s c.id).isSome) : getCtx (putCtx s c) c.id = some c :=
  find_map_same s.ctxs Ctx.id c c.id h rfl

theorem getCtx_putCtx_other (s : State) (c : Ctx) (k : Nat) (h : k ≠ c.id) : getCtx (putCtx s c) k = getCtx s k :=
  find_map_other s.ctxs Ctx.id c k h.symm

/-- Putting back the context that is there changes no context. -/
theorem getCtx_putCtx_self (s : State) (c : Ctx) (k : Nat) (h : getCtx s c.id = some c) : getCtx (putCtx s c) k = getCtx s k := by
  by_cases e : k = c.id
  · rw [e, h, getCtx_putCtx_same s c (by simp [h])]
  · exact getCtx_putCtx_other s c k e

@[simp] theorem getGroup_putCtx (s : State) (c : Ctx) (k : Nat) : getGroup (putCtx s c) k = getGroup s k := rfl
@[simp] theorem getGroup_putCore (s : State) (n : Nat) (c : Core) (k : Nat) : getGroup (putCore s n c) k = getGroup s k := rfl
@[simp] theorem getCtx_putGroup (s : State) (g : Group) (k : Nat) : getCtx (putGroup s g) k = getCtx s k := rfl
@[simp] theorem getCtx_putCore (s : State) (n : Nat) (c : Core) (k : Nat) : getCtx (putCore s n c) k = getCtx s k := rfl
@[simp] theorem getCore_putGroup (s : State) (g : Group) (k : Nat) : getCore (putGroup s g) k = getCore s k := rfl
@[simp] theorem getCore_putCtx (s : State) (c : Ctx) (k : Nat) : getCore (putCtx s c) k = getCore s k := rfl

/-! ### Association lists -/

theorem aget_cons {α : Type} (e : Nat × α) (l : List (Nat × α)) (k : Nat) :
    aget (e :: l) k = if e.1 = k then some e.2 else aget l k := by
  unfold aget
  by_cases h : e.1 = k
  · simp [List.find?_cons, h]
  · have : (e.1 == k) = false := by simpa using h
    simp [List.find?_cons, this, h]

theorem aget_map_same {α : Type} (l : List (Nat × α)) (k : Nat) (x : α) (h : l.any (fun e => e.1 == k)) :
    aget (l.map fun e => if e.1 == k then (k, x) else e) k = some x := by
  induction l with
  | nil => simp at h
  | cons e l ih =>
    by_cases he : e.1 = k
    · simp [aget_cons, he]
    · have : l.any (fun e => e.1 == k) := by simpa [he] using h
      simp [aget_cons, he]
      simpa using ih this

theorem aget_map_other {α : Type} (l : List (Nat × α)) (k j : Nat) (x : α) (h : j ≠ k) :
    aget (l.map fun e => if e.1 == k then (k, x) else e) j = aget l j := by
  induction l with
  | nil => rfl
  | cons e l ih =>
    by_cases he : e.1 = k
    · have h1 : ¬ k = j := fun c => h c.symm
      simp only [List.map_cons, aget_cons, he, beq_self_eq_true, if_true, h1, if_false, ih]
    · have : (e.1 == k) = false := by simpa using he
      simp only [List.map_cons, aget_cons, this, Bool.false_eq_true, if_false, ih]

theorem aget_append_single {α : Type} (l : List (Nat × α)) (k j : Nat) (x : α) :
    aget (l ++ [(k, x)]) j = (aget l j).or (if k = j then some x else none) := by
  induction l with
  | nil => simp [aget_cons, aget]
  | cons e l ih =>
    simp only [List.cons_append, aget_cons, ih]
    split <;> simp

theorem aget_none {α : Type} (l : List (Nat × α)) (k : Nat) (h : ¬ l.any (fun e => e.1 == k)) : aget l k = none := by
  induction l with
  | nil => rfl
  | cons e l ih =>
    have h' : ¬ e.1 = k ∧ ¬ l.any (fun e => e.1 == k) := by
      simp only [List.any_cons, Bool.or_eq_true, beq_iff_eq, not_or] at h
      exact h
    simp [aget_cons, h'.1, ih h'.2]

theorem aget_aset_same {α : Type} (l : List (Nat × α)) (k : Nat) (x : α) : aget (aset l k x) k = some x := by
  unfold aset
  split
  · next h => exact aget_map_same l k x h
  · next h => simp [aget_append_single, aget_none l k h]

theorem aget_aset_other {α : Type} (l : List (Nat × α)) (k j : Nat) (x : α) (h : j ≠ k) : aget (aset l k x) j = aget l j := by
  unfold aset
  split
  · exact aget_map_other l k j x h
  · have : ¬ k = j := fun c => h c.symm
    simp [aget_append_single, this]

@[simp] theorem getCore_putCore_same (s : State) (n : Nat) (c : Core) : getCore (putCore s n c) n = c := by
  simp [getCore, putCore, aget_aset_same]

theorem getCore_putCore_other (s : State) (n k : Nat) (c : Core) (h : k ≠ n) : getCore (putCore s n c) k = getCore s k := by
  simp [getCore, putCore, aget_aset_other _ _ _ _ h]

end Sys2Proof.Machine
end

