-- ==== Sys2Proof/Laws/Issue.lean ====
section
/-! SUPPORT. What the current strand's view is, what issuing an instruction does once its checks pass, and how a view that
changed only its own strand and group is put back. -/

namespace Sys2Proof.Machine

/-! ### The current view -/

/-- Everything a view says about the state it was taken from. -/
theorem viewOf_spec {s : State} {gid j : Nat} {a b : DWord} {v : View} (h : viewOf s gid j a b = some v) :
    v.s = s ∧ v.j = j ∧ v.iw0 = a ∧ v.iw1 = b ∧ v.g.gid = gid ∧ getGroup s gid = some v.g ∧ getCtx s v.g.ctx = some v.c ∧
      v.g.strands[j]? = some v.st := by
  simp only [viewOf, Option.bind_eq_some_iff, Option.map_eq_some_iff] at h
  obtain ⟨g, hg, c, hc, st, hst, rfl⟩ := h
  exact ⟨rfl, rfl, rfl, rfl, getGroup_gid hg, hg, hc, hst⟩

theorem viewOf_intro {s : State} {gid j : Nat} {g : Group} {c : Ctx} {st : Strand} (a b : DWord) (hg : getGroup s gid = some g)
    (hc : getCtx s g.ctx = some c) (hst : g.strands[j]? = some st) :
    viewOf s gid j a b = some { s, c, g, j, st, iw0 := a, iw1 := b } := by
  simp [viewOf, hg, hc, hst]

theorem curView_spec {s : State} {v : View} (h : curView s = some v) :
    v.s = s ∧ getGroup s v.g.gid = some v.g ∧ getCtx s v.g.ctx = some v.c ∧ v.g.strands[v.j]? = some v.st ∧
      v.g.state = .resident ∧ s.cur = some { agent := .strand v.g.gid v.j, iw0 := v.iw0, iw1 := v.iw1 } := by
  unfold curView at h
  split at h
  · next gid j a b hc =>
    simp only [Option.bind_eq_some_iff] at h
    obtain ⟨u, hu, h⟩ := h
    split at h
    · next hr =>
      cases h
      obtain ⟨h1, h2, h3, h4, h5, h6, h7, h8⟩ := viewOf_spec hu
      subst h2 h3 h4 h5
      exact ⟨h1, h6, h7, h8, hr, hc⟩
    · cases h
  · cases h

/-! ### Issuing -/

@[simp] theorem charge_g (v : View) (n : Need) : (v.charge n).g = v.g := rfl
@[simp] theorem charge_c (v : View) (n : Need) : (v.charge n).c = v.c := rfl
@[simp] theorem charge_j (v : View) (n : Need) : (v.charge n).j = v.j := rfl
@[simp] theorem charge_iw0 (v : View) (n : Need) : (v.charge n).iw0 = v.iw0 := rfl
@[simp] theorem charge_iw1 (v : View) (n : Need) : (v.charge n).iw1 = v.iw1 := rfl
@[simp] theorem charge_st (v : View) (n : Need) : (v.charge n).st = { v.st with readyAt := v.s.clock + 1, issuedAt := some v.s.clock } := rfl
@[simp] theorem charge_acting (v : View) (n : Need) (h : Hd) : (v.charge n).st.acting h = v.st.acting h := rfl
@[simp] theorem charge_actsOnce (v : View) (n : Need) (h : Hd) : (v.charge n).st.actsOnce h = v.st.actsOnce h := rfl
@[simp] theorem charge_clock (v : View) (n : Need) : (v.charge n).s.clock = v.s.clock := rfl
@[simp] theorem charge_nextSeq (v : View) (n : Need) : (v.charge n).s.nextSeq = v.s.nextSeq := rfl
@[simp] theorem charge_mem (v : View) (n : Need) : (v.charge n).s.mem = v.s.mem := rfl

/-- Where the checks pass, the gate runs the instruction's own effect. -/
theorem gate_open (v : View) (h : Hd) (n : Need) (body : View → State) (ho : v.open h n = true) :
    (v.charge n).gate h n body = body (v.charge n) := by
  simp only [View.open, Bool.and_eq_true, Bool.or_eq_true, Bool.not_eq_true', Option.isNone_iff_eq_none,
    Option.isSome_iff_ne_none] at ho
  obtain ⟨⟨⟨⟨h1, h2⟩, h3⟩, h4⟩, h5⟩ := ho
  have e1 : ((n.f64 || n.coll) && !(v.charge n).s.hasFeature) = false := by
    have : (v.charge n).s.hasFeature = v.s.hasFeature := rfl
    rcases h1 with h1 | h1
    · simp [h1.1, h1.2]
    · simp [this, h1]
  have e2 : (v.charge n).st.unowned n.named = none := h2
  have e3 : (n.noRegion && (v.charge n).st.active && (v.charge n).st.handler.isNone) = false := by
    simp only [charge_st]
    rcases h3 with h3 | h3
    · rcases h3 with h3 | h3 <;> simp [h3]
    · cases hh : v.st.handler <;> simp_all
  have e5 : (v.charge n).badSource h n = none := h5
  simp only [View.gate, e1, e2, e3, Bool.false_eq_true, if_false, e5]
  rcases h4 with h4 | h4
  · simp [h4]
  · cases n.noRecompute && (v.charge n).st.acts h n <;> simp [h4]

/-- A strand instruction that is ready runs its own effect on the charged view. -/
theorem strandExec_ready {s : State} {v : View} {h : Hd} {n : Need} (body : View → State) (hr : Ready s v h n) :
    strandExec h n body s = .next (body (v.charge n)) := by
  obtain ⟨h1, h2, h3⟩ := hr
  simp [strandExec, h1, h2, gate_open v h n body h3]

/-- An instruction that acts once and is ready. -/
theorem onceExec_ready {s : State} {v : View} {h : Hd} {n : Need} (body : View → State) (hr : Ready s v h n) :
    onceExec h n body s = .next (if v.st.actsOnce h then body (v.charge n) else ((v.charge n).advance n.len).put) := by
  rw [onceExec, strandExec_ready _ hr]
  rfl

/-- A strand that may not issue yet changes nothing. -/
theorem strandExec_waits {s : State} {v : View} {h : Hd} {n : Need} (body : View → State) (hv : curView s = some v)
    (hc : v.canIssue h n = false) : strandExec h n body s = .next s := by
  simp [strandExec, hv, hc]

/-! ### Putting a view back -/

/-- Each part of the device but the groups, contexts and cores is what the view's state has. -/
@[simp] theorem put_mem (v : View) : v.put.mem = v.s.mem := rfl
@[simp] theorem put_clock (v : View) : v.put.clock = v.s.clock := rfl
@[simp] theorem put_cores (v : View) : v.put.cores = v.s.cores := rfl
@[simp] theorem put_agenda (v : View) : v.put.agenda = v.s.agenda := rfl
@[simp] theorem put_nextSeq (v : View) : v.put.nextSeq = v.s.nextSeq := rfl

@[simp] theorem putStrand_gid (g : Group) (j : Nat) (st : Strand) : (g.putStrand j st).gid = g.gid := rfl
@[simp] theorem putStrand_ctx (g : Group) (j : Nat) (st : Strand) : (g.putStrand j st).ctx = g.ctx := rfl

theorem getGroup_put_self (u : View) (hg : (getGroup u.s u.g.gid).isSome) :
    getGroup u.put u.g.gid = some (u.g.putStrand u.j u.st) := by
  have := getGroup_putGroup_same (putCtx u.s u.c) (u.g.putStrand u.j u.st) (by simpa using hg)
  simpa [View.put] using this

theorem getGroup_put_other (u : View) (k : Nat) (hk : k ≠ u.g.gid) : getGroup u.put k = getGroup u.s k := by
  have := getGroup_putGroup_other (putCtx u.s u.c) (u.g.putStrand u.j u.st) k (by simpa using hk)
  simpa [View.put] using this

theorem getCtx_put_self (u : View) (hc : (getCtx u.s u.c.id).isSome) : getCtx u.put u.c.id = some u.c := by
  simpa [View.put] using getCtx_putCtx_same u.s u.c hc

theorem getCtx_put_other (u : View) (k : Nat) (hk : k ≠ u.c.id) : getCtx u.put k = getCtx u.s k := by
  simpa [View.put] using getCtx_putCtx_other u.s u.c k hk

@[simp] theorem getCore_put (u : View) (k : Nat) : getCore u.put k = getCore u.s k := rfl

/-- The view of the strand after its view was put back. -/
theorem viewOf_put (u : View) (hg : (getGroup u.s u.g.gid).isSome) (hc : (getCtx u.s u.c.id).isSome) (hi : u.c.id = u.g.ctx)
    (hj : u.j < u.g.strands.length) :
    viewOf u.put u.g.gid u.j u.iw0 u.iw1 = some { u with s := u.put, g := u.g.putStrand u.j u.st } := by
  refine viewOf_intro _ _ (getGroup_put_self u hg) ?_ ?_
  · rw [putStrand_ctx, ← hi]; exact getCtx_put_self u hc
  · simp [Group.putStrand, hj]

/-- Issuing changes only the core's weight, port occupancies and event counts. -/
theorem coreKept_charge (v : View) (n : Need) : CoreKept (getCore v.s v.g.core) (getCore (v.charge n).s v.g.core) := by
  simp [View.charge, CoreKept, perfCount]

/-- A view that starts from the charged one and differs in its group, strand and sequence number alone. -/
def FromCharged (v u : View) (n : Need) : Prop :=
  { u.s with nextSeq := v.s.nextSeq } = (v.charge n).s ∧ u.c = v.c ∧ u.j = v.j ∧ u.iw0 = v.iw0 ∧ u.iw1 = v.iw1 ∧
    u.g.gid = v.g.gid ∧ u.g.ctx = v.g.ctx ∧ u.g.strands = v.g.strands

theorem getGroup_of_eq {s t : State} {k : Nat} (h : s.groups = t.groups) : getGroup s k = getGroup t k := by
  simp [getGroup, h]

/-- The frame of every instruction that touches only its own strand and group. -/
theorem apart_of_put {s : State} {v u : View} {n : Need} (hv : curView s = some v) (hu : FromCharged v u n) :
    Apart s u.put v ∧ viewOf u.put v.g.gid v.j v.iw0 v.iw1 = some { u with s := u.put, g := u.g.putStrand u.j u.st } := by
  obtain ⟨hs, hg, hc, hst, hr, hcur⟩ := curView_spec hv
  subst hs
  obtain ⟨e1, e2, e3, e4, e5, e6, e7, e8⟩ := hu
  have hgroups : u.s.groups = v.s.groups := by
    have e := congrArg State.groups e1
    exact e
  have hctxs : u.s.ctxs = v.s.ctxs := by
    have e := congrArg State.ctxs e1
    exact e
  have hcores : u.s.cores = (v.charge n).s.cores := by
    have e := congrArg State.cores e1
    exact e
  have hid := getCtx_id hc
  have hgetc : ∀ k, getCtx u.s k = getCtx v.s k := fun k => by simp [getCtx, hctxs]
  refine ⟨⟨⟨?_, ?_, ?_⟩, ?_, ?_⟩, ?_⟩
  · have a1 : { u.put with groups := v.s.groups, ctxs := v.s.ctxs, cores := v.s.cores, nextSeq := v.s.nextSeq } =
        { ({ u.s with nextSeq := v.s.nextSeq } : State) with groups := v.s.groups, ctxs := v.s.ctxs, cores := v.s.cores } := rfl
    rw [a1, e1]
    rfl
  · intro k hk
    rw [getGroup_put_other u k (by rw [e6]; exact hk)]
    exact getGroup_of_eq hgroups
  · intro k hk
    have : getCore u.put k = getCore (v.charge n).s k := by simp [getCore, hcores]
    rw [this]
    exact getCore_putCore_other _ _ _ _ hk
  · intro k
    by_cases hk : k = u.c.id
    · subst hk
      rw [getCtx_put_self u (by rw [hgetc, e2, hid, hc]; rfl), e2, hid, hc]
    · rw [getCtx_put_other u k hk, hgetc]
  · have : getCore u.put v.g.core = getCore (v.charge n).s v.g.core := by simp [getCore, hcores]
    rw [this]
    exact coreKept_charge v n
  · have hj : u.j < u.g.strands.length := by
      rw [e3, e8]
      exact (List.getElem?_eq_some_iff.mp hst).1
    have := viewOf_put u (by rw [getGroup_of_eq hgroups, e6, hg]; rfl) (by rw [hgetc, e2, hid, hc]; rfl)
      (by rw [e2, e7, hid]) hj
    rw [e6, e3, e4, e5] at this
    simpa [e3, e4, e5] using this

/-- An instruction that answers a view put back runs. -/
theorem runs_of_put {i : Instr} {s : State} {v u : View} {n : Need} {P : View → Prop} (hv : curView s = some v)
    (he : exec i s = .next u.put) (hu : FromCharged v u n)
    (hP : P { u with s := u.put, g := u.g.putStrand u.j u.st }) : Runs i s v P :=
  ⟨_, _, he, (apart_of_put hv hu).1, (apart_of_put hv hu).2, hP⟩

/-- A result put in flight, with the PC past the instruction. -/
theorem flies_of_fly {i : Instr} {s : State} {v : View} {n : Need} {len lat : Nat} {ws : List VWrite} {ss : List (Nat × Word)}
    (hv : curView s = some v) (he : exec i s = .next ((((v.charge n).fly lat ws ss).advance len).put)) :
    Flies i s v len lat ws ss := by
  have hs := (curView_spec hv).1
  refine runs_of_put (n := n) hv he ⟨?_, rfl, rfl, rfl, rfl, rfl, rfl, rfl⟩ ?_
  · rfl
  · subst hs
    exact ⟨rfl, rfl⟩

end Sys2Proof.Machine
end

