-- ==== Sys2Proof/Laws/Operands.lean ====
section
/-! SUPPORT. The elements of a word that is built from its elements, and instructions whose result flies to a register. -/

namespace Sys2Proof.Machine

/-! ### Elements (R89) -/

theorem buildSum_lt (w e : Nat) (g : Nat → Nat) :
    (List.range e).foldl (fun x k => x + g k % 2 ^ w * 2 ^ (w * k)) 0 < 2 ^ (w * e) := by
  induction e with
  | zero => simp
  | succ e ih =>
    rw [List.range_succ, List.foldl_append, List.foldl_cons, List.foldl_nil]
    have h1 : g e % 2 ^ w ≤ 2 ^ w - 1 := Nat.le_sub_one_of_lt (Nat.mod_lt _ (Nat.two_pow_pos w))
    have h2 := Nat.mul_le_mul_right (2 ^ (w * e)) h1
    have h3 : 2 ^ (w * (e + 1)) = 2 ^ w * 2 ^ (w * e) := by rw [← Nat.pow_add]; congr 1; ring
    have h4 : (2 ^ w - 1) * 2 ^ (w * e) + 2 ^ (w * e) = 2 ^ w * 2 ^ (w * e) := by
      have := Nat.two_pow_pos w
      rw [← Nat.succ_mul]
      congr 1
      omega
    omega

theorem buildSum_digit (w e k : Nat) (g : Nat → Nat) (hk : k < e) :
    (List.range e).foldl (fun x k => x + g k % 2 ^ w * 2 ^ (w * k)) 0 / 2 ^ (w * k) % 2 ^ w = g k % 2 ^ w := by
  induction e with
  | zero => omega
  | succ e ih =>
    rw [List.range_succ, List.foldl_append, List.foldl_cons, List.foldl_nil]
    by_cases h : k = e
    · subst h
      rw [Nat.add_mul_div_right _ _ (Nat.two_pow_pos _), Nat.div_eq_of_lt (buildSum_lt w k g), Nat.zero_add, Nat.mod_mod]
    · have hk' : k < e := by omega
      have hp : 2 ^ (w * e) = 2 ^ (w * k) * (2 ^ w * 2 ^ (w * (e - k - 1))) := by
        rw [← Nat.pow_add, ← Nat.pow_add]
        congr 1
        have : e = k + 1 + (e - k - 1) := by omega
        conv_lhs => rw [this]
        ring
      rw [hp, show g e % 2 ^ w * (2 ^ (w * k) * (2 ^ w * 2 ^ (w * (e - k - 1)))) =
        2 ^ (w * k) * (2 ^ w * (g e % 2 ^ w * 2 ^ (w * (e - k - 1)))) by ring, Nat.add_mul_div_left _ _ (Nat.two_pow_pos _),
        Nat.add_mul_mod_self_left]
      exact ih hk'

/-- The elements of a word built from its elements. -/
theorem elemAt_buildWord (f : Fmt) (g : Nat → Nat) (k : Nat) (hk : k < f.elems) : elemAt f (buildWord f g) k = g k % 2 ^ f.width :=
  buildSum_digit f.width f.elems k g hk

/-- A word of a format other than F64 has 32 bits. -/
theorem buildWord_lt (f : Fmt) (g : Nat → Nat) (hf : f ≠ .f64) : buildWord f g < 2 ^ 32 := by
  have h := buildSum_lt f.width f.elems g
  have e : f.width * f.elems = 32 := by cases f <;> first | rfl | exact absurd rfl hf
  rw [e] at h
  exact h

/-- An integer code lies below 2^w. -/
theorem intCode_lt (f : Fmt) (x : Int) : intCode f x < 2 ^ f.width := by
  have h : (0 : Int) < (2 ^ f.width : Nat) := by exact_mod_cast Nat.two_pow_pos f.width
  have h1 := Int.emod_nonneg x (Int.ne_of_gt h)
  have h2 := Int.emod_lt_of_pos x h
  simp only [intCode]
  omega

/-- Element k of the word an integer instruction computes. -/
theorem elemAt_intWord (f : Fmt) (sat : Bool) (x : Int → Int → Int → Int) (a b c k : Nat) (hk : k < f.elems) :
    elemAt f (intWord f sat x a b c) k =
      intCode f (if sat then clampInt f (x (elemInt f a k) (elemInt f b k) (elemInt f c k)) else x (elemInt f a k) (elemInt f b k) (elemInt f c k)) := by
  rw [intWord, elemAt_buildWord f _ k hk, Nat.mod_eq_of_lt (intCode_lt f _)]

theorem intWord_lt (f : Fmt) (sat : Bool) (x : Int → Int → Int → Int) (a b c : Nat) (hf : f ≠ .f64) :
    intWord f sat x a b c < 2 ^ 32 := buildWord_lt f _ hf

/-- The result of the model's clamp or wrap is the one the statements name. -/
theorem intCode_eq_intResult (f : Fmt) (sat : Bool) (x : Int) : intCode f (if sat then clampInt f x else x) = intResult f sat x := by
  simp only [intResult, intCode, clampInt, intRange, lowestOf, highestOf]
  cases sat <;> cases f.signed <;> rfl

/-! ### Results that fly -/

theorem putWords_eq (v : View) (h : Hd) (lat len : Nat) (d : VR) (r : Nat → Nat) :
    v.putWords h lat len d.val r = ((v.fly lat (v.results h d fun i => BitVec.ofNat 32 (r i)) []).advance len).put := by
  simp [View.putWords, View.resultWrites, View.results]

@[simp] theorem charge_results (v : View) (n : Need) (h : Hd) (d : VR) (r : Nat → Word) : (v.charge n).results h d r = v.results h d r := rfl
@[simp] theorem charge_results64 (v : View) (n : Need) (h : Hd) (d : VR) (r : Nat → DWord) :
    (v.charge n).results64 h d r = v.results64 h d r := rfl
@[simp] theorem charge_srcV (v : View) (n : Need) (f : Fmt) (k i : Nat) : (v.charge n).srcV f k i = v.srcV f k i := rfl
@[simp] theorem charge_srcB (v : View) (n : Need) (f : Fmt) (b : BSrc) (i : Nat) : (v.charge n).srcB f b i = v.srcB f b i := by
  cases b <;> rfl
@[simp] theorem charge_wordB (v : View) (n : Need) (b : BSrc) : (v.charge n).wordB b = v.wordB b := by
  simp [View.wordB]

/-- A word result in the acting lanes flies. -/
theorem flies_putWords {i : Instr} {s : State} {v : View} {n : Need} {h : Hd} {len lat : Nat} {d : VR} {r : Nat → Nat}
    (hv : curView s = some v) (he : exec i s = .next ((v.charge n).putWords h lat len d.val r)) :
    Flies i s v len lat (v.results h d fun i => BitVec.ofNat 32 (r i)) [] :=
  flies_of_fly (n := n) hv (by rw [he, putWords_eq, charge_results])

/-- Uniform registers fly. -/
theorem flies_putS {i : Instr} {s : State} {v : View} {n : Need} {len lat : Nat} {ss : List (Nat × Word)}
    (hv : curView s = some v) (he : exec i s = .next ((v.charge n).putS lat len ss)) : Flies i s v len lat [] ss :=
  flies_of_fly (n := n) hv he

/-! ### Rounding: a mode other than RS does not look at its draw (R97 to R100) -/

theorem goesUp_draw (mode : RMode) (hm : mode ≠ .rs) (neg toLow : Bool) (rem d x y : Nat) :
    goesUp mode neg toLow rem d x = goesUp mode neg toLow rem d y := by
  cases mode <;> simp_all [goesUp]

theorem roundTo_draw (f : Fmt) (v : Num) (mode : RMode) (hm : mode ≠ .rs) (sat : Bool) (x y : Nat) :
    roundTo f v mode sat x = roundTo f v mode sat y := by
  have h := fun a b c d => goesUp_draw mode hm a b c d x y
  unfold roundTo roundIeee roundGrid
  simp only [hm, false_and, if_false, h]

end Sys2Proof.Machine
end

