-- ==== Sys2Proof/Laws/Memory.lean ====
section
/-! SUPPORT. Memory instructions of strands: what the checks decide when every access passes, and what queueing does. -/

namespace Sys2Proof.Machine

/-! ### The checks (R277) -/

theorem lowestRank_ok (l : List (Access × Verdict)) (h : ∀ e ∈ l, ∃ pa pl, e.2 = .ok pa pl) (m : Nat) :
    l.foldl (fun m e => match e.2 with
      | .fail r _ _ _ => min m r
      | _ => m) m = m := by
  induction l generalizing m with
  | nil => rfl
  | cons e l ih =>
    obtain ⟨pa, pl, he⟩ := h e (by simp)
    rw [List.foldl_cons, he]
    exact ih (fun x hx => h x (by simp [hx])) m

theorem failsAt_ok (l : List (Access × Verdict)) (h : ∀ e ∈ l, ∃ pa pl, e.2 = .ok pa pl) (r : Nat) : failsAt l r = [] := by
  simp only [failsAt, List.filterMap_eq_nil_iff]
  intro e he
  obtain ⟨pa, pl, h1⟩ := h e he
  rw [h1]

theorem missed_ok (l : List (Access × Verdict)) (h : ∀ e ∈ l, ∃ pa pl, e.2 = .ok pa pl) : missed l = [] := by
  have hnil : ∀ m : List Nat, m = [] → m.eraseDups = [] := by
    intro m hm
    rw [hm]
    rfl
  refine hnil _ (List.filterMap_eq_nil_iff.mpr ?_)
  intro e he
  obtain ⟨pa, pl, h1⟩ := h e he
  rw [h1]

theorem okParts_map (l : List Access) (pa : Access → Nat) (place : Access → Place) :
    okParts (l.map fun a => (a, Verdict.ok (pa a) (place a))) = l.map fun a => a.part (pa a) (place a) := by
  induction l with
  | nil => rfl
  | cons a l ih =>
    simp only [okParts, List.map_cons, List.filterMap_cons] at ih ⊢
    rw [ih]

/-- Accesses that all pass give their parts. -/
theorem judge_ok (s : State) (c : Ctx) (chain : Option ChainFault) (l : List Access) (pa : Access → Nat) (place : Access → Place)
    (hr : ∀ a ∈ l, (a.part (pa a) (place a)).onTile = true → tileUnready s c a.addr = none ∧
      ∀ f, chain = some f → granule a.addr ≠ f.va) :
    judge s c chain (l.map fun a => (a, Verdict.ok (pa a) (place a))) = .parts (l.map fun a => a.part (pa a) (place a)) := by
  have hok : ∀ e ∈ l.map (fun a => (a, Verdict.ok (pa a) (place a))), ∃ p q, e.2 = Verdict.ok p q := by
    intro e he
    obtain ⟨a, _, rfl⟩ := List.mem_map.mp he
    exact ⟨_, _, rfl⟩
  have hlow : lowestRank (l.map fun a => (a, Verdict.ok (pa a) (place a))) = 100 := lowestRank_ok _ hok 100
  unfold judge
  simp only [missed_ok _ hok, hlow, failsAt_ok _ hok, okParts_map]
  have htile : (l.map fun a => a.part (pa a) (place a)).findSome? (fun p => if p.onTile then tileUnready s c p.addr else none) = none := by
    rw [List.findSome?_eq_none_iff]
    intro p hp
    obtain ⟨a, ha, rfl⟩ := List.mem_map.mp hp
    split
    · next h => exact (hr a ha h).1
    · rfl
  cases chain with
  | none => simp [htile]
  | some f =>
    have hhit : (l.map fun a => a.part (pa a) (place a)).filter (fun p => p.onTile && granule p.addr == f.va) = [] := by
      rw [List.filter_eq_nil_iff]
      intro p hp
      obtain ⟨a, ha, rfl⟩ := List.mem_map.mp hp
      simp only [Bool.and_eq_true, beq_iff_eq, not_and]
      intro h
      exact (hr a ha h).2 f rfl
    simp [hhit, htile]

/-- Accesses that pass, judged for a global or a shared instruction. -/
theorem judge_passes {v : View} {shared : Bool} {l : List Access} {ps : List Part} (h : v.Passes shared l ps) :
    (if shared then judgeShared v.s v.c v.g l else judgeGlobal v.s v.c v.g v.st.acc v.st.walked v.st.chainFault l) = .parts ps := by
  obtain ⟨pa, place, h1, h2, rfl⟩ := h
  have hmap : ∀ (f : Access → Verdict), (∀ a ∈ l, f a = .ok (pa a) (place a)) →
      (l.map fun a => (a, f a)) = l.map fun a => (a, Verdict.ok (pa a) (place a)) := by
    intro f hf
    apply List.map_congr_left
    intro a ha
    rw [hf a ha]
  cases shared
  · simp only [Bool.false_eq_true, if_false] at h1 ⊢
    have hj := judge_ok v.s v.c v.st.chainFault l pa place (fun a ha => (h1 a ha).2)
    rw [← hmap (fun a => checkAgent v.s v.c v.g.core v.st.walked a.use a.addr a.align) (fun a ha => (h1 a ha).1)] at hj
    unfold judgeGlobal
    rw [(h2 rfl).1]
    cases hb : v.g.build with
    | none => exact hj
    | some key => simpa [(h2 rfl).2 key hb] using hj
  · simp only [if_true] at h1 ⊢
    have hj := judge_ok v.s v.c none l pa place (fun a ha ht => ⟨((h1 a ha).2 ht).1, fun f hf => by cases hf⟩)
    rw [← hmap (fun a => checkShared v.g a.addr a.len a.align) (fun a ha => (h1 a ha).1)] at hj
    exact hj

/-! ### Issuing a memory instruction -/

/-- A memory instruction that acts in no lane only advances. -/
theorem memExec_idle {s : State} {v : View} {h : Hd} {n : Need} (out : View → AccessOut) (k : View → List Part → State)
    (hr : Ready s v h n) (ha : v.st.acting h = 0) : memExec h n out k s = .next ((v.charge n).advance n.len).put := by
  obtain ⟨h1, h2, h3⟩ := hr
  simp [memExec, h1, h2, gate_open v h n _ h3, ha]

/-- A memory instruction that is ready does what its judged accesses say. -/
theorem memExec_ready {s : State} {v : View} {h : Hd} {n : Need} (out : View → AccessOut) (k : View → List Part → State)
    (hr : Ready s v h n) (ha : v.st.acting h ≠ 0) : memExec h n out k s = .next (v.conclude (v.charge n) n (out v) k) := by
  obtain ⟨h1, h2, h3⟩ := hr
  simp only [memExec, h1, h2, gate_open v h n _ h3, if_true]
  split
  · next h => exact absurd (by simpa using h) ha
  · rfl

/-- Only the PC advances. -/
theorem becomes_advance {i : Instr} {s : State} {v : View} {n : Need} {len : Nat} (hv : curView s = some v)
    (he : exec i s = .next ((v.charge n).advance len).put) : Becomes i s v (v.passed len) :=
  runs_of_put (n := n) hv he ⟨rfl, rfl, rfl, rfl, rfl, rfl, rfl, rfl⟩ ⟨rfl, rfl⟩

/-- An instruction that acts once and does not act only advances. -/
theorem once_idle {i : Instr} {s : State} {v : View} {h : Hd} {n : Need} (body : View → State) (hr : Ready s v h n)
    (he : exec i s = onceExec h n body s) (ha : v.st.actsOnce h = false) : Becomes i s v (v.passed n.len) :=
  becomes_advance hr.1 (by rw [he, onceExec_ready body hr, ha]; rfl)

/-- Queueing an entry, with the walks used up or not. -/
theorem enqueues_of_enqueue {i : Instr} {s : State} {v : View} {n : Need} {len : Nat} {kind : AccKind} {isLd isSt : Bool}
    {ps : List Part} {path : Option Nat} {frames : List Nat} (checked : Bool) (hv : curView s = some v)
    (he : exec i s = .next ((((if checked then (v.charge n).settled else v.charge n).enqueue kind isLd isSt ps path frames).advance len).put)) :
    Enqueues i s v len kind isLd isSt ps path frames checked := by
  have hs := (curView_spec hv).1
  subst hs
  cases checked
  · refine runs_of_put (n := n) hv he ?_ ?_
    · cases path <;> exact ⟨rfl, rfl, rfl, rfl, rfl, rfl, rfl, rfl⟩
    · exact ⟨_, rfl, rfl, rfl, by cases path <;> rfl⟩
  · refine runs_of_put (n := n) hv he ?_ ?_
    · cases path <;> exact ⟨rfl, rfl, rfl, rfl, rfl, rfl, rfl, rfl⟩
    · exact ⟨_, rfl, rfl, rfl, by cases path <;> rfl⟩

end Sys2Proof.Machine
end

