-- ==== Sys2Proof/Laws/Table.lean ====
section
/-! SUPPORT. Canonical tables and memories: read after write, other keys left alone, the canonical form kept by every
operation, and equal canonical tables from equal reads. -/

namespace Sys2Proof.Machine

variable {α : Type} [DecidableEq α]

/-! ### Tables -/

theorem tget_below (d : α) (m : List (Nat × α)) (lo k : Nat) (h : tableFrom d lo m = true) (hk : k < lo) : tget d m k = d := by
  induction m generalizing lo with
  | nil => rfl
  | cons e m ih =>
    obtain ⟨j, x⟩ := e
    simp only [tableFrom, Bool.and_eq_true, decide_eq_true_eq] at h
    have hj : k ≠ j := by omega
    simp only [tget, hj, if_false]
    exact ih (j + 1) h.2 (by omega)

theorem tget_tset_same (d : α) (m : List (Nat × α)) (k : Nat) (x : α) (lo : Nat) (h : tableFrom d lo m = true) :
    tget d (tset d m k x) k = x := by
  induction m generalizing lo with
  | nil => by_cases hx : x = d <;> simp [tset, tget, hx]
  | cons e m ih =>
    obtain ⟨j, y⟩ := e
    have h' := h
    simp only [tableFrom, Bool.and_eq_true, decide_eq_true_eq] at h
    simp only [tset]
    by_cases h1 : k < j
    · have hj : k ≠ j := by omega
      by_cases hx : x = d
      · simp only [h1, hx, if_true, tget, hj, if_false]
        exact tget_below d m (j + 1) k h.2 (by omega)
      · simp [h1, hx, tget]
    · by_cases h2 : k = j
      · by_cases hx : x = d
        · subst h2
          simp only [lt_irrefl, if_false, hx, if_true]
          exact tget_below d m (k + 1) k h.2 (by omega)
        · simp [h2, hx, tget]
      · simp only [h1, h2, if_false, tget]
        exact ih (j + 1) h.2

theorem tget_tset_other (d : α) (m : List (Nat × α)) (k j : Nat) (x : α) (hj : j ≠ k) : tget d (tset d m k x) j = tget d m j := by
  induction m with
  | nil => by_cases hx : x = d <;> simp [tset, tget, hx, hj]
  | cons e m ih =>
    obtain ⟨i, y⟩ := e
    simp only [tset]
    by_cases h1 : k < i
    · by_cases hx : x = d <;> simp [h1, hx, tget, hj]
    · by_cases h2 : k = i
      · subst h2
        by_cases hx : x = d <;> simp [hx, tget, hj]
      · simp only [h1, h2, if_false, tget, ih]

theorem tableFrom_mono (d : α) (m : List (Nat × α)) (lo lo' : Nat) (h : tableFrom d lo m = true) (hl : lo' ≤ lo) :
    tableFrom d lo' m = true := by
  cases m with
  | nil => rfl
  | cons e m =>
    simp only [tableFrom, Bool.and_eq_true, decide_eq_true_eq] at h ⊢
    exact ⟨⟨by omega, h.1.2⟩, h.2⟩

theorem tableFrom_tset (d : α) (m : List (Nat × α)) (lo k : Nat) (x : α) (h : tableFrom d lo m = true) (hk : lo ≤ k) :
    tableFrom d lo (tset d m k x) = true := by
  induction m generalizing lo with
  | nil => by_cases hx : x = d <;> simp [tset, tableFrom, hx, hk]
  | cons e m ih =>
    obtain ⟨j, y⟩ := e
    have h' := h
    simp only [tableFrom, Bool.and_eq_true, decide_eq_true_eq] at h
    simp only [tset]
    by_cases h1 : k < j
    · by_cases hx : x = d
      · simp only [h1, hx, if_true]; exact h'
      · simp only [h1, hx, if_true, if_false, tableFrom, Bool.and_eq_true, decide_eq_true_eq]
        exact ⟨⟨hk, by simpa using hx⟩, ⟨by omega, h.1.2⟩, h.2⟩
    · by_cases h2 : k = j
      · by_cases hx : x = d
        · simp only [h2, hx, if_true]
          simp only [lt_irrefl, if_false]
          exact tableFrom_mono d m (j + 1) lo h.2 (by omega)
        · simp only [h2, hx, if_true, if_false, lt_irrefl, tableFrom, Bool.and_eq_true, decide_eq_true_eq]
          exact ⟨⟨by omega, by simpa using hx⟩, h.2⟩
      · simp only [h1, h2, if_false, tableFrom, Bool.and_eq_true, decide_eq_true_eq]
        exact ⟨h.1, ih (j + 1) h.2 (by omega)⟩

/-- Writing keeps the canonical form. -/
theorem tableWf_tset (d : α) (m : List (Nat × α)) (k : Nat) (x : α) (h : tableWf d m = true) : tableWf d (tset d m k x) = true :=
  tableFrom_tset d m 0 k x h (Nat.zero_le k)

theorem table_ext_from (d : α) (m n : List (Nat × α)) (lo : Nat) (hm : tableFrom d lo m = true) (hn : tableFrom d lo n = true)
    (h : ∀ k, tget d m k = tget d n k) : m = n := by
  induction m generalizing n lo with
  | nil =>
    cases n with
    | nil => rfl
    | cons e n =>
      obtain ⟨j, y⟩ := e
      simp only [tableFrom, Bool.and_eq_true, decide_eq_true_eq] at hn
      have := h j
      simp only [tget, if_true] at this
      exact absurd this.symm hn.1.2
  | cons e m ih =>
    obtain ⟨i, x⟩ := e
    simp only [tableFrom, Bool.and_eq_true, decide_eq_true_eq] at hm
    cases n with
    | nil =>
      have := h i
      simp only [tget, if_true] at this
      exact absurd this hm.1.2
    | cons e n =>
      obtain ⟨j, y⟩ := e
      simp only [tableFrom, Bool.and_eq_true, decide_eq_true_eq] at hn
      have hij : i = j := by
        rcases Nat.lt_trichotomy i j with c | c | c
        · have hi := h i
          have hb : tget d ((j, y) :: n) i = d := tget_below d _ j i (by simp [tableFrom, hn]) c
          rw [hb] at hi
          simp only [tget, if_true] at hi
          exact absurd hi hm.1.2
        · exact c
        · have hj := h j
          have hb : tget d ((i, x) :: m) j = d := tget_below d _ i j (by simp [tableFrom, hm]) c
          rw [hb] at hj
          simp only [tget, if_true] at hj
          exact absurd hj.symm hn.1.2
      subst hij
      have hxy : x = y := by simpa [tget] using h i
      subst hxy
      have : m = n := by
        refine ih n (i + 1) hm.2 hn.2 fun k => ?_
        by_cases hk : k = i
        · subst hk
          rw [tget_below d m _ k hm.2 (by omega), tget_below d n _ k hn.2 (by omega)]
        · simpa [tget, hk] using h k
      rw [this]

/-- Canonical tables that read alike are equal. -/
theorem table_ext (d : α) (m n : List (Nat × α)) (hm : tableWf d m = true) (hn : tableWf d n = true)
    (h : ∀ k, tget d m k = tget d n k) : m = n := table_ext_from d m n 0 hm hn h

/-! ### Memories -/

theorem readByte_writeByte_same (m : Memory) (a : Nat) (b : Byte) (h : Memory.wf m = true) : readByte (writeByte m a b) a = b :=
  tget_tset_same 0 m a b 0 h

theorem readByte_writeByte_other (m : Memory) (a k : Nat) (b : Byte) (h : k ≠ a) : readByte (writeByte m a b) k = readByte m k :=
  tget_tset_other 0 m a k b h

theorem wf_writeByte (m : Memory) (a : Nat) (b : Byte) (h : Memory.wf m = true) : Memory.wf (writeByte m a b) = true :=
  tableWf_tset 0 m a b h

theorem wf_writeBytes (m : Memory) (a : Nat) (bs : List Byte) (h : Memory.wf m = true) : Memory.wf (writeBytes m a bs) = true := by
  induction bs generalizing m a with
  | nil => exact h
  | cons b bs ih => exact ih _ _ (wf_writeByte m a b h)

theorem wf_writeNat (m : Memory) (a n v : Nat) (h : Memory.wf m = true) : Memory.wf (writeNat m a n v) = true :=
  wf_writeBytes m a _ h

theorem wf_clearBytes (m : Memory) (a n : Nat) (h : Memory.wf m = true) : Memory.wf (clearBytes m a n) = true :=
  wf_writeBytes m a _ h

/-- A write leaves every byte outside it alone. -/
theorem readByte_writeBytes_outside (m : Memory) (a k : Nat) (bs : List Byte) (h : k < a ∨ a + bs.length ≤ k) :
    readByte (writeBytes m a bs) k = readByte m k := by
  induction bs generalizing m a with
  | nil => rfl
  | cons b bs ih =>
    simp only [List.length_cons] at h
    rw [writeBytes, ih _ _ (by omega), readByte_writeByte_other _ _ _ _ (by omega)]

/-- A write is read back. -/
theorem readByte_writeBytes_inside (m : Memory) (a n : Nat) (bs : List Byte) (hw : Memory.wf m = true) (h : n < bs.length) :
    readByte (writeBytes m a bs) (a + n) = bs[n] := by
  induction bs generalizing m a n with
  | nil => simp at h
  | cons b bs ih =>
    rw [writeBytes]
    cases n with
    | zero =>
      rw [readByte_writeBytes_outside _ _ _ _ (by omega)]
      simpa using readByte_writeByte_same m a b hw
    | succ n =>
      have := ih (writeByte m a b) (a + 1) n (wf_writeByte m a b hw) (by simpa using h)
      rw [show a + (n + 1) = a + 1 + n by omega, this]
      simp

theorem readBytes_length (m : Memory) (a n : Nat) : (readBytes m a n).length = n := by
  induction n generalizing a with
  | zero => rfl
  | succ n ih => simp [readBytes, ih]

/-- Reading where another range was written gives what was there. -/
theorem readBytes_writeBytes_apart (m : Memory) (a n b : Nat) (bs : List Byte) (h : a + n ≤ b ∨ b + bs.length ≤ a) :
    readBytes (writeBytes m b bs) a n = readBytes m a n := by
  induction n generalizing a with
  | zero => rfl
  | succ n ih =>
    rw [readBytes, readBytes, ih (a + 1) (by omega), readByte_writeBytes_outside _ _ _ _ (by omega)]

/-- Reading the range that was written gives what was written. -/
theorem readBytes_writeBytes (m : Memory) (a : Nat) (bs : List Byte) (hw : Memory.wf m = true) :
    readBytes (writeBytes m a bs) a bs.length = bs := by
  induction bs generalizing m a with
  | nil => rfl
  | cons b bs ih =>
    rw [writeBytes, List.length_cons, readBytes, ih _ _ (wf_writeByte m a b hw),
      readByte_writeBytes_outside _ _ _ _ (by omega), readByte_writeByte_same m a b hw]

theorem reset_memory_wf : Memory.wf State.reset.mem = true := rfl

end Sys2Proof.Machine
end

