-- ==== Sys2Proof/Tests/Slice0.lean ====
section
/-! SUPPORT. Tests: ill-formed terms, words of the spec's encodings, and states that meet the statements' hypotheses. -/

namespace Sys2Proof.Tests.Slice0
open Sys2Proof Sys2Proof.Machine

set_option Elab.async false

/-! ### Small states -/

/-- A context whose virtual addresses from 0 are a page of HBM4E at 0x20_0000. -/
def ctx : Ctx := { id := 1, ptroot := 0x100000, trapvec := 0x8000, sliceStart := some 0 }
/-- A strand with a tile at each slot. -/
def strand : Strand := { q := Vector.ofFn fun k => BitVec.ofNat 16 (0x8000 + k.val), p := Vector.replicate 7 0x0000FFFF }
/-- A group of it. -/
def group : Group :=
  { gid := 1, ctx := 1, grid := 1, strands := [strand], shbytes := 4096, srseed := 7
    owner := (List.range 64).map fun t => (t, if t < 32 then .strand 0 t else .capstan) }
/-- A group whose strand is another. -/
def with_ (st : Strand) : Group := { group with strands := [st] }
/-- A state in which the strand of a group acts. -/
def state (c : Ctx) (g : Group) : State :=
  { State.reset with clock := 100, boot := 2, mem := placedTables [], ctxs := [c], groups := [g], nextGid := 2, nextSeq := 10
                     cur := some { agent := .strand 1 0 } }
/-- The view of that strand. -/
def viewIn (s : State) (c : Ctx) (g : Group) : View := { s, c, g, j := 0, st := g.strands.headD {}, iw0 := 0, iw1 := 0 }
/-- Of `state`. -/
def view (c : Ctx) (g : Group) : View := viewIn (state c g) c g

/-- May the acting strand issue with each of these needs? -/
def ready (v : View) (h : Hd) (ns : List Need) : Bool := ns.all fun n => v.canIssue h n && v.open h n
/-- It may. -/
theorem ready_all (s : State) (v : View) (h : Hd) (ns : List Need) (hv : curView s = some v) (hr : ready v h ns = true) :
    ∀ n ∈ ns, Ready s v h n := by
  intro n hn
  have := List.all_eq_true.mp hr n hn
  simp only [Bool.and_eq_true] at this
  exact ⟨hv, this.1, this.2⟩

/-- Below 2 MiB the walk of the small context ends at its page. -/
theorem walk_low (m : Memory) (va : Nat) (h : va < 2 ^ 21) (h0 : readNat m 0x100000 8 = 0x120001) (h1 : readNat m 0x120000 8 = 0x130001)
    (h2 : readNat m 0x130000 8 = 0x20001F) : walkLevels m [] va walkTable 0x100000 = .leaf 0x200000 true true true true false 0 := by
  have z : ∀ hi lo, 21 ≤ lo → bits va hi lo = 0 := fun hi lo hl => by
    simp [bits, Nat.div_eq_of_lt (Nat.lt_of_lt_of_le h (Nat.pow_le_pow_right (by decide) hl))]
  simp only [walkTable, walkLevels, z 55 42 (by decide), z 41 29 (by decide), z 28 21 (by decide), Nat.mul_zero, Nat.add_zero, h0,
    (by decide : bits 0x120001 47 8 * 256 = 0x120000), h1, (by decide : bits 0x130001 47 8 * 256 = 0x130000), h2]
  rfl

/-- The small context's page is mapped in a memory. -/
abbrev Mapped (s : State) : Prop :=
  s.poison = [] ∧ readNat s.mem 0x100000 8 = 0x120001 ∧ readNat s.mem 0x120000 8 = 0x130001 ∧ readNat s.mem 0x130000 8 = 0x20001F

/-- An access of the device to that page passes. -/
theorem check_low (s : State) (u : Use) (va : Nat) (hu : u.permitted true true true = true) (h : va < 2 ^ 21) (hm : Mapped s) :
    ∃ pa pl, checkSys s ctx u va 1 = .ok pa pl := by
  have hw : walk s ctx va = .leaf 0x200000 true true true true false 0 := by
    simpa only [walk, hm.1, ctx] using walk_low s.mem va h hm.2.1 hm.2.2.1 hm.2.2.2
  have ht : tbit (leafAddr 0x200000 true va) 47 = false := by
    simp only [tbit, leafAddr, if_true, Nat.div_eq_of_lt (by omega : 0x200000 + va % 2097152 < 2 ^ 47)]
    rfl
  refine ⟨leafAddr 0x200000 true va, placeOf (leafAddr 0x200000 true va), ?_⟩
  rw [checkSys, checkWith, if_neg (by simp [Nat.mod_one]), if_neg (by omega), show regionAt ctx va = none from rfl]
  simp only [hw, leafVerdict, hu, ht]
  simp [ctx]

/-- So its trap block can be read and written. -/
theorem block_free (s : State) (off n : Nat) (ho : off + n < 0x10000) (hm : Mapped s) :
    blockStop s ctx off n = none ∧ blockWritable s ctx off n = true := by
  have h := fun (u : Use) (k : Nat) (hu : u.permitted true true true = true) (hk : k < n / 8) =>
    check_low s u (ctx.trapvec + off + 8 * k) hu (by simp only [ctx]; omega) hm
  refine ⟨by
    simp only [blockStop, List.findSome?_eq_none_iff, List.mem_range]
    intro k hk
    obtain ⟨pa, pl, e⟩ := h .load k rfl hk
    simp [e, isPoisoned, hm.1], ?_⟩
  simp only [blockWritable, List.all_eq_true, List.mem_range]
  intro k hk
  obtain ⟨pa, pl, e⟩ := h .store k rfl hk
  simp [e, isPoisoned, hm.1]
/-! ### States that meet the hypotheses of the statements -/

/-- A guard met in the lanes of P0. -/
def hP0 : Hd := { p := 0 }
/-- A guard met nowhere. -/
def hNever : Hd := { p := 7, neg := true }
/-- The small state and the view in it. -/
def s0 : State := state ctx group
/-- Its view. -/
def v0 : View := view ctx group
/-- A Capstan-bound group. -/
def capGroup : Group := { group with capBound := true, cap := some {} }
/-- Words of V9 in the first lanes: 0, 1, the sign bit, an F32 NaN, infinity; F32 ones in V10 with a count of 5. -/
def wordsGroup : Group :=
  { group with sregs := [(6, 0x20)], regs := [(289, 1, 0xFF), (290, 0x80000000, 0xFF), (291, 0x7FC00001, 0xFF), (292, 0x7F800000, 0xFF)] ++
      (List.range 8).map fun k => (320 + k, 0x3F800000, 5) }
/-- The view in a state of that group. -/
def vW : View := view ctx wordsGroup

theorem witness_IntegerArithmetic : (∀ n ∈ [needV .va .i32 [(0, 8)] [(1, 9)] (.v 10) [], needV .va .i8 [(0, 0)] [(1, 255)] (.imm32 5) [],
      needV .va .i32 [(0, 8)] [(1, 9)] (.s 10) [(3, 255)], needV .va .f64 (vNames .f64 0 8) (vNames .f64 1 254) (.v 10) [],
      { port := .va, len := 8, named := vNames .f64 0 8 ++ vNames .f64 1 254, sregs := [6] }], Ready s0 v0 hP0 n) ∧
    (Instr.iadd hP0 .i8 0 255 (.imm32 5) true true true).wf = true ∧ (Instr.imulh hP0 .ui32 8 9 (.v 10)).wf = true ∧
    (Instr.imad hP0 .i32 8 9 (.s 10) 255 false).wf = true ∧ (Instr.iadd64 hP0 8 254 (.v 10) false).wf = true ∧
    (Instr.idp4 hP0 .i8 true true 8 9 (.v 10) 255).wf = true :=
  ⟨ready_all _ _ _ _ rfl (by decide +kernel), by decide +kernel⟩

theorem witness_WordBits : (∀ n ∈ [needV .vx .b32 [(0, 8)] [(1, 9)] (.v 10) [], needV .vx .b32 [(0, 8)] [(1, 9)] (.imm8 32) [(3, 11)],
      needV .vx .b32 [(0, 8)] [(1, 9)] (.imm8 0) [], needV .vx .i32 [(0, 8)] [(1, 9)] (.s 6) []], Ready vW.s vW {} n) ∧
    (Instr.bfe {} .i32 8 9 (.s 6)).wf = true ∧ vW.word 9 0 = 0 ∧ vW.word 9 1 = 1 ∧ vW.word 9 2 = 0x80000000 ∧
    (vW.bword (.imm8 32) 0).toNat = 32 :=
  ⟨ready_all _ _ _ _ rfl (by decide +kernel), by decide +kernel⟩

theorem witness_PredicateWrites : (∀ n ∈ [{ needV .va .i32 [] [(1, 9)] (.v 10) [] with preds := [3] }, { port := .vx, len := 8, preds := [3, 2] },
      { port := .ctl, len := 8, preds := [3, 2] }, { port := .ctl, len := 8, named := [(1, 9)], sregs := [6], preds := BSrc.unpacks (.s 6) },
      { port := .ctl, len := 8, named := [(1, 9)], preds := BSrc.unpacks (.imm8 5) },
      { needV .va .f32 [] (vNames .f32 1 9) (.v 10) [] with f64 := false, occ := 1, preds := [3] },
      { port := .vx, len := 8, f64 := false, named := vNames .f32 1 10, sregs := [6], preds := [3] }], Ready vW.s vW hP0 n) ∧
    (Instr.isetp hP0 .i32 .lt 3 9 (.v 10) {}).wf = true ∧ (Instr.fsetp hP0 .f32 .nan {} 3 9 (.v 10) {} false).wf = true ∧
    Comb.reads {} = [] ∧
    (Instr.sigq hP0 .f32 1 3 10 (.s 6) {}).wf = true ∧ (vW.numV .f32 9 3 0).isNan = true ∧ (vW.numV .f32 9 4 0).isNan = false :=
  ⟨ready_all _ _ _ _ rfl (by decide +kernel), by decide +kernel⟩

theorem witness_Moves : (∀ n ∈ [{ needV .va .f64 (vNames .f64 0 8) [] (.v 10) [] with f64 := true },
      { needV .va .f32 (vNames .f32 0 8) (vNames .f32 1 9) (.s 6) [] with f64 := false, preds := [2] },
      { needV .vx .b32 [(0, 8)] [(1, 9)] (.imm8 1) [] with unchecked := [1] }, { port := .vx, len := 8, named := [(0, 255)], preds := [2] },
      { port := .ctl, len := 8, named := [(0, 0)] }, { port := .ctl, len := 8, named := [(0, 8)], preds := [0, 1, 2, 3, 4, 5, 6] }],
      Ready vW.s vW hP0 n) ∧ vW.badLanes 9 (vW.shflReads hP0 .down 5 (.imm8 1)) = 0 :=
  ⟨ready_all _ _ _ _ rfl (by decide +kernel), by decide +kernel⟩

theorem witness_UniformResults : (∀ n ∈ [{ port := .ctl, len := 8, sregs := [7], em := true }, { port := .ctl, len := 8, sregs := [7], em := false },
      { port := .ctl, len := 8, sregs := [7, 6], em := false }, { port := .ctl, len := 8, unchecked := [1], em := false, sregs := [7, 6] },
      { port := .ctl, len := 8, named := [(1, 9)], unchecked := [1], em := false, sregs := [7, 6] },
      { port := .ctl, len := 16, sregs := [] }, { port := .ctl, len := 8, sregs := [7], preds := [2] }],
      Ready vW.s vW {} n ∧ Ready vW.s vW hNever n) ∧ vW.badLanes 9 (vW.st.live &&& (1#32 <<< 5)) = 0 ∧
    vW.st.actsOnce {} = true ∧ vW.st.actsOnce hNever = false ∧ (Instr.ualu {} .b32 .sar false 7 6 (.imm8 1)).wf = true ∧
    (Instr.ualu {} .f32 .mul false 7 6 (.s 6)).wf = true ∧ (numOf .f32 0x20).isNan = false ∧
    (numOf .f32 0x20).mul (numOf .f32 0x20) ≠ .bad :=
  ⟨fun n h => ⟨ready_all _ _ _ _ rfl (by decide +kernel) n h, ready_all _ _ _ _ rfl (by decide +kernel) n h⟩, by decide +kernel⟩

theorem witness_FloatArithmetic : (∀ n ∈ [needF .va 1 .f32 8 9 (.v 10) none, needF .va 2 .f64 8 254 (.v 10) none, needF .va 1 .f16 0 9 (.s 6) (some 255),
      needF .va 4 .f32 8 9 (.imm8 1) none, needF .va 8 .f64 8 10 (.v 12) none], Ready vW.s vW hP0 n) ∧
    (Instr.fadd hP0 .f64 .rd {} 8 254 (.v 10)).wf = true ∧ (Instr.fmin hP0 .f32 {} 8 9 (.v 10)).wf = true ∧
    (Instr.ffma hP0 .f16 .rn {} 0 9 (.s 6) 255).wf = true ∧ (Instr.fdiv hP0 .f32 .rz {} 8 9 (.imm8 1)).wf = true :=
  ⟨ready_all _ _ _ _ rfl (by decide +kernel), by decide +kernel⟩

theorem witness_FloatFunctions : (∀ n ∈ [needF .vx 4 .f32 8 9 (.imm8 0) none, needF .vx 8 .f64 8 10 (.imm8 0) none], Ready vW.s vW hP0 n) ∧
    (Instr.frcp hP0 .f64 .rn {} 8 10).wf = true ∧ (Instr.fexp2 hP0 .f32 .rn {} 8 9).wf = true ∧ (Instr.ftanh hP0 .f32 .rn {} 8 9).wf = true :=
  ⟨ready_all _ _ _ _ rfl (by decide +kernel), by decide +kernel⟩

theorem witness_ClassesAndCounts : (∀ n ∈ [{ port := .vx, len := 8, f64 := false, named := (0, 8) :: vNames .f32 1 9 },
      { port := .vx, len := 8, named := [(0, 8), (1, 9)] }, { port := .vx, len := 8, f64 := false, readsD := true, named := vNames .f32 0 10 ++ [], sregs := [6] },
      { port := .ctl, len := 8, f64 := false, named := vNames .f32 1 10, sregs := [7] }], Ready vW.s vW {} n) ∧
    (Instr.fclass {} .f32 8 9).wf = true ∧ (Instr.nanpl {} .f32 8 9 false).wf = true ∧ (Instr.sigset {} .f32 10 (.s 6) 0).wf = true ∧
    (Instr.sigmin {} .f32 7 10).wf = true ∧ ((vW.srcV .f32 10 0).count .f32 0).2 = true ∧ ((vW.srcV .f32 10 0).count .f32 0).1 = 5 ∧
    (let a : Opd := { x := .fin false 3 0, c := 5, tracked := true, full := false }
     a.x.isNonzero = true ∧ (a.x.mul a.x).isNonzero = true ∧ (roundTo .f32 (a.x.mul a.x) .rn false 0).ovf = false ∧
     (numOf .f32 (fpElem .mul .f32 .rn false ⟨0, 1, 0⟩ a a a).1).isNonzero = true ∧
     Fmt.f32.emin ≤ (numOf .f32 (fpElem .mul .f32 .rn false ⟨0, 1, 0⟩ a a a).1).expo) :=
  ⟨ready_all _ _ _ _ rfl (by decide +kernel), by decide +kernel⟩

theorem witness_DotScaleRotate : (∀ n ∈ [needV .va .f16 [(0, 8)] [(1, 9)] (.v 10) [(3, 11)], needV .vx .f32 [(0, 8)] [(1, 9)] (.v 10) [],
      { port := .vx, occ := 4, len := 16, sregs := [], named := [(0, 8), (0, 9), (1, 12), (1, 13)] ++ [] ++ [(3, 14)] }], Ready vW.s vW hP0 n) ∧
    (Instr.fdot2 hP0 .f16 .rn {} 8 9 (.v 10) 11).wf = true ∧ (Instr.dqnt hP0 .m8 .rn 8 9 (.v 10) 3).wf = true ∧
    (vW.bword (.imm32 0xFFFFFF) 0).toNat < 2 ^ 24 ∧ 2 ^ 24 ≤ (vW.bword (.imm32 0x1000000) 0).toNat ∧
    Fn.cos.apply ((Machine.Num.fin false 0 0).mul (vW.numV .f32 14 0 0)) ≠ .bad :=
  ⟨ready_all _ _ _ _ rfl (by decide +kernel), by decide +kernel⟩

theorem witness_first_nan : (∃ n, firstNan [vW.numV .f32 9 3 0] = some n) ∧ firstNan [vW.numV .f32 9 0 0] = none ∧
    2 ^ 24 ≤ (vW.bword (.imm32 0x1000000) 0).toNat ∧ Fn.cos.apply ((Machine.Num.fin false 1 0).mul (vW.numV .f32 9 4 0)) = .bad := by
  refine ⟨⟨vW.numV .f32 9 3 0, by decide +kernel⟩, by decide +kernel⟩

theorem witness_Conversions : (∀ n ∈ [{ port := .vx, len := 8, f64 := Fmt.f16 == .f64 || Fmt.f32 == .f64, named := vNames .f16 0 8 ++ vNames .f32 1 9, readsD := true },
      { needV .vx .f32 [(0, 8)] [(1, 9)] (.v 10) [] with readsD := true }], Ready vW.s vW hP0 n) ∧
    (Instr.cvt hP0 .f16 .f32 .rs {} 8 9 1).wf = true ∧ (Instr.qnt hP0 .fp4 .rs true 8 9 (.v 10) 7).wf = true :=
  ⟨ready_all _ _ _ _ rfl (by decide +kernel), by decide +kernel⟩

/-! ### Memory and tables -/

/-- A strand with no lane but 0 and 2, and with the page of the small context in the core's TLB. -/
def memGroup : Group :=
  { with_ { strand with em := 5 } with sregs := [(20, 0x1000), (8, 0x40), (10, 0x44)], regs := [(96 + 2, 16, 0xFF)] }
/-- The state. -/
def memState : State :=
  { state ctx memGroup with cores := [(0, { tlb := [{ ctx := 1, base := 0, leaf := .leaf 0x200000 true true true true false 0 }] })] }
/-- Its view. -/
def vM : View := viewIn memState ctx memGroup

/-- Accesses that each pass and lie in no tile may be queued. -/
theorem passes_of (v : View) (shared : Bool) (l : List Access) (pa : Access → Nat) (place : Access → Place) (hb : v.g.build = none)
    (hs : tileStalled v.c v.st.acc l = false) (h : (l.all fun a => decide ((if shared then checkShared v.g a.addr a.len a.align
        else checkAgent v.s v.c v.g.core v.st.walked a.use a.addr a.align) = .ok (pa a) (place a)) && !(a.part (pa a) (place a)).onTile) = true) :
    v.Passes shared l (l.map fun a => a.part (pa a) (place a)) := by
  refine ⟨pa, place, fun a ha => ?_, fun _ => ⟨hs, fun key hk => ?_⟩, rfl⟩
  · have := List.all_eq_true.mp h a ha
    simp only [Bool.and_eq_true, decide_eq_true_eq, Bool.not_eq_true'] at this
    exact ⟨this.1, fun ht => absurd ht (by simp [this.2])⟩
  · exact absurd hk (by simp [hb])

theorem witness_LaneAddress : vM.memAddr true (.s 10) (.v 3) (dispBytes 0xFF .b32) 2 = 0x100C ∧
    vM.memAddr false (.s 8) (.imm8 4) 0 0 = 0x44 := by decide +kernel

theorem witness_LoadsAndStoresQueue : (∀ n ∈ [needM true .b32 (dataRegs 0 .b32 4) (.s 10) (.v 3) [] (some 0),
      needM true .b128 (dataRegs 0 .b128 4) (.s 10) (.imm8 0) [] (some 0), needM false .b32 (dataRegs 0 .b32 4) (.s 8) (.v 3) [] (some 2),
      { needM true .b64 (dataRegs 0 .b64 4) (.v 6) (.s 9) [] (some 1) with noRegion := true, noRecompute := true, readsD := true },
      { needM false .b32 (dataRegs 0 .b32 4) (.s 8) (.v 3) [] (some 2) with readsD := true }], Ready memState vM {} n ∧ Ready memState vM hNever n) ∧
    (Instr.ld {} .b128 false false 4 (.s 10) (.imm8 0) 0).wf = true ∧ (Instr.ldt {} .b32 false 4 (.s 10) (.v 3) 0).wf = true ∧
    (Instr.lds {} .b32 false 4 (.s 8) (.v 3) 0).wf = true ∧ (Instr.st {} .b64 4 (.v 6) (.s 9) 1).wf = true ∧
    (Instr.stt {} .b64 4 (.v 6) (.s 9) 1).wf = true ∧ (Instr.sts {} .b32 4 (.s 8) (.v 3) 0).wf = true ∧
    vM.st.acting {} ≠ 0 ∧ vM.st.acting hNever = 0 :=
  ⟨fun n h => ⟨ready_all _ _ _ _ rfl (by decide +kernel) n h, ready_all _ _ _ _ rfl (by decide +kernel) n h⟩, by decide +kernel⟩

theorem witness_accesses_pass : (∃ ps, vM.Passes false [{ lane := 0, addr := 0x1000, len := 4, align := 4, use := .load },
      { lane := 2, addr := 0x1010, len := 4, align := 4, use := .load }] ps) ∧
    ∃ ps, vM.Passes true [{ lane := 0, addr := 0xFFC, len := 4, align := 4, use := .store, data := [1, 2, 3, 4] }] ps :=
  ⟨⟨_, passes_of vM _ _ (fun a => 0x200000 + a.addr) (fun _ => .home 0 0) rfl rfl (by decide +kernel)⟩,
   ⟨_, passes_of vM _ _ (fun a => a.addr) (fun _ => .shared 1) rfl rfl (by decide +kernel)⟩⟩

theorem witness_AtomicsQueue : (∀ n ∈ [{ needM true .b32 [(0, 4)] (.s 10) (.v 3) [(3, 5)] (some 0) with noRegion := true, noRecompute := true },
      { needM true .b32 (wideRegs 0 true 4) (.s 10) (.v 3) (wideRegs 3 true 6) (some 0) with noRegion := true, noRecompute := true, readsD := true },
      { needM false .b32 [(0, 4)] (.s 8) (.v 3) [(3, 5)] (some 2) with noRegion := true },
      { needM false .b32 (wideRegs 0 false 4) (.s 8) (.v 3) (wideRegs 3 false 6) (some 2) with noRegion := true, readsD := true },
      { needM true .b32 [] (.s 10) (.v 3) [(3, 5)] (some 1) with noRegion := true, noRecompute := true }], Ready memState vM {} n) ∧
    (Instr.atom {} .add .i32 .acqrel .dev 4 (.s 10) (.v 3) 5).wf = true ∧ (Instr.cas {} true .rlx .core 4 (.s 10) (.v 3) 6).wf = true ∧
    (Instr.atoms {} .add .i32 .rlx 4 (.s 8) (.v 3) 5).wf = true ∧ (Instr.cass {} false .rlx 4 (.s 8) (.v 3) 6).wf = true ∧
    (Instr.red {} .add .f32 .rlx .dev (.s 10) (.v 3) 5).wf = true :=
  ⟨ready_all _ _ _ _ rfl (by decide +kernel), by decide +kernel⟩

/-- A line of HBM4E in the L2. -/
def l2Of (pa : Nat) : L2Line := { die := 0, slice := 0, set := 0, way := 0, pa := pa / 128 * 128, ctx := some 1, va := 0x1000, tile := none, old := none }
/-- One lane prefetches it. -/
def prefGroup : Group := { memGroup with strands := [{ strand with em := 1 }] }
/-- The state. -/
def prefState : State := { state ctx prefGroup with l2 := [l2Of 0x201000] }

theorem witness_PrefetchAndMaintenance : (∀ n ∈ [needM true .b32 [] (.s 10) (.v 3) [] none, { needPair 20 (.imm8 64) with path := some 6 },
      { needPair 20 (.s 8) with path := some 1, noRegion := true, noRecompute := true }],
      Ready memState vM {} n ∧ Ready prefState (viewIn prefState ctx prefGroup) {} n) ∧
    (∃ pa die slice, checkSys prefState ctx .load 0x1000 1 = .ok pa (.home die slice) ∧ isPoisoned prefState pa = false ∧
      (l2Line prefState pa).isSome = true ∧ (fillLine prefState (some 1) 0x1000 pa false false).isSome = true) ∧
    maskLanes ((viewIn prefState ctx prefGroup).st.acting {}) = [0] ∧ vM.st.actsOnce {} = true ∧
    ∃ r cause extra ad, checkSys memState ctx .load (2 ^ 56) 1 = .fail r cause extra ad :=
  ⟨fun n h => ⟨ready_all _ _ _ _ rfl (by decide +kernel) n h, ready_all _ _ _ _ rfl (by decide +kernel) n h⟩,
   ⟨0x201000, 0, 0, by decide +kernel⟩, by decide +kernel, by decide +kernel, ⟨_, _, _, _, rfl⟩⟩

/-- Tables of a tenant: HTBASE 0x1_0000 with 4 entries, FTBASE 0x1_1000 with 8, FPBASE 0x2_0000, frames of 1 KiB. Entry 0 is live
with `len` positions; its pages lie in frames 0 and 1; frames 2 to 4 are free. -/
def kvMem (len : Nat) (m : Memory) : Memory :=
  [(0x210000, 0x12000), (0x210008, 2 ^ 36 + 5 * 2 ^ 24 + 4), (0x210010, len + 64 * 2 ^ 32), (0x210020, 0x12100), (0x210028, 2 ^ 24 + 4),
   (0x210030, 64 * 2 ^ 32), (0x212000, 2 ^ 32), (0x211000, 1 + 16 * 2 ^ 16), (0x211008, 1 + 4 * 2 ^ 16),
   (0x211010, 2 ^ 21 + 3 * 2 ^ 32), (0x211018, 2 ^ 21 + 4 * 2 ^ 32), (0x211020, 2 ^ 21 + 0x7FFFFFFF * 2 ^ 32)].foldl
    (fun m e => writeNat m e.1 8 e.2) m
/-- A group with a handle in S20, S21: entry `index` of generation 5, tenant `ten`. -/
def kvGroup (index ten : Nat) : Group :=
  { group with sregs := [(20, BitVec.ofNat 32 (4 + index * 2 ^ 20)), (21, BitVec.ofNat 32 (5 * 2 ^ 12 + ten * 2 ^ 24)), (6, 1), (10, 1)] }
/-- A state with these tables and that group. -/
def kvState (len freehead index ten : Nat) : State :=
  let s := state ctx (kvGroup index ten)
  { s with mem := kvMem len s.mem, tenants := s.tenants.set 0 { s.tenants[0] with
      kv := #v[0x10000, 4, 0x11000, 8, 0x20000, 10, BitVec.ofNat 64 freehead] } }
/-- Its view. -/
def kvView (len freehead index ten : Nat) : View := viewIn (kvState len freehead index ten) ctx (kvGroup index ten)
/-- Needs of an instruction that changes tables. -/
def kvNeed (b : BSrc) (ss : List Nat) : Need :=
  { needPair 20 b with sregs := [20, 21] ++ b.ss .b32 ++ ss, path := some 1, noRegion := true, noRecompute := true, drained := true }
/-- The entry that the handle names. -/
def kvEntry (len : Nat) : HEntry := readHEntry (kvState len 2 0 0) ctx 0

theorem witness_HandleReads : (∀ n ∈ [needHandle (dataRegs 0 .b32 4) 10 (.imm8 17) 1, needHandle (vNames .f64 0 4) 10 (.imm8 17) 1, kvNeed (.imm8 0) [6, 7]],
      Ready (kvState 20 2 0 0) (kvView 20 2 0 0) {} n ∧ Ready (kvState 20 2 0 1) (kvView 20 2 0 1) {} n ∧
      Ready (kvState 20 2 4 0) (kvView 20 2 4 0) {} n ∧ Ready (kvState 20 2 1 0) (kvView 20 2 1 0) {} n) ∧
    checkHandle (kvState 20 2 0 0) ctx (readSS (kvGroup 0 0) 20).toNat = .ok (kvEntry 20) ∧
    mapWordAt (kvState 20 2 0 0) ctx (kvEntry 20) 1 = 1 ∧ 1 < kvFtcount (kvState 20 2 0 0) ctx ∧ (kvEntry 20).len = 20 ∧
    entryFault (kvState 20 2 0 0) ctx (readSS (kvGroup 0 0) 20).toNat = none ∧ entryFault (kvState 20 2 0 1) ctx (readSS (kvGroup 0 1) 20).toNat = none ∧
    entryFault (kvState 20 2 4 0) ctx (readSS (kvGroup 4 0) 20).toNat = none ∧ entryFault (kvState 20 2 1 0) ctx (readSS (kvGroup 1 0) 20).toNat = none ∧
    tableFault (kvState 20 2 0 0) ctx [(.load, (kvEntry 20).wordAt 1)] = none ∧ (kvView 20 2 0 0).st.acc = [] ∧
    bits (readSS (kvGroup 0 1) 20).toNat 63 56 ≠ ctx.tenant ∧
    kvHtcount (kvState 20 2 4 0) ctx ≤ handleIndex (readSS (kvGroup 4 0) 20).toNat ∧ (readHEntry (kvState 20 2 1 0) ctx 1).live = false :=
  ⟨fun n h => ⟨ready_all _ _ _ _ rfl (by decide +kernel) n h, ready_all _ _ _ _ rfl (by decide +kernel) n h,
    ready_all _ _ _ _ rfl (by decide +kernel) n h, ready_all _ _ _ _ rfl (by decide +kernel) n h⟩, by decide +kernel⟩

theorem witness_KvAppend : (∀ n ∈ [kvNeed (.imm8 0) [6, 7]], Ready (kvState 20 2 0 0) (kvView 20 2 0 0) {} n ∧
      Ready (kvState 20 2 0 0) (kvView 20 2 0 0) hNever n ∧ Ready (kvState 32 2 0 0) (kvView 32 2 0 0) {} n ∧
      Ready (kvState 32 noFrame 0 0) (kvView 32 noFrame 0 0) {} n ∧ Ready (kvState 64 2 0 0) (kvView 64 2 0 0) {} n) ∧
    (popFrame (kvState 32 2 0 0) ctx 0).isSome = true ∧ popFrame (kvState 32 noFrame 0 0) ctx 0 = none ∧
    (kvEntry 64).capp ≤ (kvEntry 64).len / 16 ∧ (kvEntry 20).len % 16 ≠ 0 ∧ (kvEntry 32).len % 16 = 0 ∧
    checkHandle (kvState 32 2 0 0) ctx (readSS (kvGroup 0 0) 20).toNat = .ok (kvEntry 32) ∧
    frameRef (readFrame (kvState 20 2 0 0) ctx 1) ≤ 1 ∧
    (∀ v ∈ [kvView 20 2 0 0, kvView 32 2 0 0, kvView 32 noFrame 0 0, kvView 64 2 0 0], entryFault v.s ctx (readSS v.g 20).toNat = none ∧
      tableFault (v.charge (kvNeed (.imm8 0) [6, 7])).s ctx (kvappTouch (v.charge (kvNeed (.imm8 0) [6, 7])) (readSS v.g 20).toNat
        (readHEntry v.s ctx 0)) = none) :=
  ⟨fun n h => ⟨ready_all _ _ _ _ rfl (by decide +kernel) n h, ready_all _ _ _ _ rfl (by decide +kernel) n h,
    ready_all _ _ _ _ rfl (by decide +kernel) n h, ready_all _ _ _ _ rfl (by decide +kernel) n h,
    ready_all _ _ _ _ rfl (by decide +kernel) n h⟩, by decide +kernel⟩

theorem witness_KvMaps : (∀ n ∈ [kvNeed (.imm8 0) [], kvNeed (.s 10) [6, 7], kvNeed (.imm8 3) [6], kvNeed (.imm8 3) [10, 11]],
      Ready (kvState 20 2 0 0) (kvView 20 2 0 0) {} n) ∧
    checkHandle (kvState 20 2 0 0) ctx (readSS (kvGroup 0 0) 20).toNat = .ok (kvEntry 20) ∧ 3 < (kvEntry 20).capp ∧
    (readHEntry (kvState 20 2 0 0) ctx 1).live = false ∧ (kvEntry 20).pages ≤ (readHEntry (kvState 20 2 0 0) ctx 1).capp ∧
    pageWords (kvState 20 2 0 0) ctx (kvEntry 20) = [0, 1] ∧
    frameFree (readFrame (kvState 20 2 0 0) ctx 0) = false ∧ frameFree (readFrame (kvState 20 2 0 0) ctx 1) = false ∧
    frameRef (readFrame (kvState 20 2 0 0) ctx 0) + 1 ≤ 65535 ∧
    (let v := kvView 20 2 0 0
     let e := kvEntry 20
     let u := fun (b : BSrc) (ss : List Nat) => v.charge (kvNeed b ss)
     entryFault v.s ctx (readSS v.g 20).toNat = none ∧
     tableFault (u (.imm8 0) []).s ctx ((.atomic, e.at_) :: (e.wordUses .load ++ wordUses (u (.imm8 0) []).s ctx (pageWords (u (.imm8 0) []).s ctx e))) = none ∧
     (∀ dst ∈ [0, 1, 4], tableFault (u (.s 10) [6, 7]).s ctx (kvforkTouch (u (.s 10) [6, 7]) dst e) = none) ∧
     (∀ p ∈ [3, 4], tableFault (u (.imm8 3) [6]).s ctx (kvsetTouch (u (.imm8 3) [6]) p e [1]) = none ∧
       tableFault (u (.imm8 3) [10, 11]).s ctx (kvsetTouch (u (.imm8 3) [10, 11]) p e [kvFreehead (u (.imm8 3) [10, 11]).s ctx]) = none ∧
       tableFault (u (.imm8 3) []).s ctx (kvsetTouch (u (.imm8 3) []) p e []) = none) ∧
     tableFault (u (.imm8 0) [6, 7]).s ctx (frameUses (u (.imm8 0) [6, 7]).s ctx [1, 0] ++ e.wordUses .atomic) = none) ∧
    (kvEntry 20).capp ≤ 4 ∧ frameFree (readFrame (kvState 20 2 0 0) ctx 2) = true ∧ kvHtcount (kvState 20 2 0 0) ctx ≤ 4 ∧
    (readHEntry (kvState 20 2 0 0) ctx 0).live = true :=
  ⟨ready_all _ _ _ _ rfl (by decide +kernel), by decide +kernel⟩

/-- A range of two granules in S20, S21, a length in S4. -/
def rangeGroup : Group := { group with sregs := [(20, 0x3800), (4, 0x1000)] }
/-- A context with belayed granules and a derived region elsewhere. -/
def belayCtx : Ctx := { ctx with belay := [(0x3000, 2), (0x5000, 65535)], regions := [{ base := 0x8000, ntiles := 2, die := 0, recbase := 0x6000 }] }
/-- The state. -/
def rangeState : State := state belayCtx rangeGroup
/-- Its view. -/
def rangeView : View := view belayCtx rangeGroup

theorem witness_BelayCounts : (∀ n ∈ [{ needTable 10 (.s 4) with preds := [1] }, { needTable 10 (.imm32 0x100001) with preds := [1] }], Ready rangeState rangeView {} n ∧
      Ready rangeState rangeView hNever n) ∧ unitsOf 0x3800 0x1000 = [0x3000, 0x4000] ∧
    (∀ g ∈ unitsOf 0x3800 0x1000, ∃ pa pl, checkSys (rangeView.charge { needTable 10 (.s 4) with preds := [1] }).s belayCtx .belay g 1 = .ok pa pl) ∧
    (unitsOf 0x3800 0x1000).filter (fun g => belayCount belayCtx g == 0) = [0x4000] ∧
    (unitsOf 0x3800 0x800).filter (fun g => belayCount belayCtx g == 0) = [] ∧ belayCount belayCtx 0x5000 = 65535 :=
  ⟨fun n h => ⟨ready_all _ _ _ _ rfl (by decide +kernel) n h, ready_all _ _ _ _ rfl (by decide +kernel) n h⟩, by decide +kernel,
   by simpa [show unitsOf 0x3800 0x1000 = [0x3000, 0x4000] by decide +kernel] using
     And.intro ⟨0x203000, .home 0 64, (by decide +kernel : checkSys (rangeView.charge { needTable 10 (.s 4) with preds := [1] }).s belayCtx .belay 0x3000 1 = _)⟩
       ⟨0x204000, .home 0 0, (by decide +kernel : checkSys (rangeView.charge { needTable 10 (.s 4) with preds := [1] }).s belayCtx .belay 0x4000 1 = _)⟩,
   by decide +kernel⟩

/-- A strand waits. -/
def waiting (w : WaitKind) : Group := with_ { strand with wait := some { kind := w, since := 3, len := 16 } }
/-- A state with the derived tile at 0x8000 PRESENT. -/
def retireState (g : Group) : State := { state belayCtx g with mem := writeNat (placedTables []) 0x206000 4 0x10000 }

theorem witness_RetireAndQuery : (∀ n ∈ [{ needTable 10 (.s 4) with preds := [1] }, { needTable 10 (.imm32 0x40000001) with preds := [1] },
      { port := .mem, len := 8, path := some 0, noRecompute := true, unchecked := [1], perLane := true, named := vNames .f64 0 4 ++ vNames .f64 1 6 },
      { port := .mem, len := 8, path := some 0, noRecompute := true, unchecked := [1], perLane := true, named := [(0, 4)] ++ vNames .f64 1 6 }],
      Ready rangeState rangeView {} n ∧ Ready rangeState rangeView hNever n) ∧
    oneRegion belayCtx [0x8000, 0x9000] = true ∧ oneRegion belayCtx [0x9000, 0xA000] = false ∧
    tileState rangeState belayCtx 0x9000 ≠ rsBuilding ∧ tileState rangeState belayCtx 0x9000 ≠ rsPresent ∧
    rangeView.recordAway {} 6 = none ∧ (rangeView.st.acc.any fun e => e.stalls) = false ∧
    tileState (retireState (waiting (.tile 0x8000))) belayCtx 0x8000 = rsPresent ∧ tileAwaited (retireState (waiting (.tile 0x8000))) 1 0x8000 = true ∧ regionAt belayCtx 0x7000 = none ∧ (regionAt belayCtx 0x8000).isSome = true ∧
    rangeView.st.acting {} ≠ 0 ∧ rangeView.st.acting hNever = 0 :=
  ⟨fun n h => ⟨ready_all _ _ _ _ rfl (by decide +kernel) n h, ready_all _ _ _ _ rfl (by decide +kernel) n h⟩, by decide +kernel⟩

/-! ### Schedule, ordering, counters -/

/-- A schedule of one entry at 0x3800; counts 1 and 65 in S4 and S5. -/
def schedGroup (n : Nat) : Group := { group with sregs := [(20, 0x3800), (4, BitVec.ofNat 32 n)] }
/-- The state. -/
def schedState (n : Nat) : State :=
  let m := [(0x203800, 0x8000), (0x203808, 2 ^ 32 + 0x1000), (0x203810, 5), (0x203818, 9)].foldl (fun m e => writeNat m e.1 8 e.2) (placedTables [])
  { state ctx (schedGroup n) with mem := m }
/-- Its view. -/
def schedView (n : Nat) : View := viewIn (schedState n) ctx (schedGroup n)
/-- A store not yet performed. -/
def lateStore : Entry :=
  { seq := 2, kind := .store, isLd := false, isSt := true, parts := [{ addr := 0x3010, pa := 0x203010, place := .home 0 64, len := 4 }] }

theorem witness_ScheduleAndTick : (∀ n ∈ [{ needTable 10 (.s 4) with path := none, preds := [1] },
      { port := .ctl, len := 8, noRegion := true, noRecompute := true, drained := true }],
      Ready (schedState 1) (schedView 1) {} n ∧ Ready (schedState 65) (schedView 65) {} n ∧ Ready (schedState 1) (schedView 1) hNever n) ∧
    (∃ bs, readSys ((schedView 1).charge { needTable 10 (.s 4) with path := none, preds := [1] }).s ctx .load 0x3800 32 = .bytes bs) ∧
    (schedEntry 0x8000 (2 ^ 32 + 0x1000) 5 9).isSome = true ∧ 0x3800 % 32 = 0 ∧
    (view ctx (waiting (.belay 2 4 0x3000 0x1000))).st.wait = some { kind := .belay 2 4 0x3000 0x1000, since := 3, len := 16 } ∧
    writesPending (state ctx (waiting (.belay 2 4 0x3000 0x1000))) 1 0x3000 0x1000 = false ∧
    writesPending (state ctx (with_ { strand with acc := [lateStore] })) 1 0x3000 0x1000 = true ∧
    (view ctx (waiting (.sched 2))).st.wait = some { kind := .sched 2, since := 3, len := 16 } ∧ getCtx s0 1 = some ctx :=
  ⟨fun n h => ⟨ready_all _ _ _ _ rfl (by decide +kernel) n h, ready_all _ _ _ _ rfl (by decide +kernel) n h,
    ready_all _ _ _ _ rfl (by decide +kernel) n h⟩, ⟨readBytes (schedState 1).mem 0x203800 32, by decide +kernel⟩, by decide +kernel⟩

/-- A MARK and a FENCE at the head of the list. -/
def markGroup (k : AccKind) : Group := with_ { strand with acc := [{ seq := 3, kind := k, isLd := true, isSt := true }, lateStore] }

theorem witness_OrderingMarks : (∀ n ∈ [({ port := .ctl, len := 8 } : Need)], Ready s0 v0 {} n ∧ Ready s0 v0 hNever n) ∧
    accOf (markGroup .mark) (.strand 1 0) = { seq := 3, kind := .mark, isLd := true, isSt := true } :: [lateStore] ∧
    accOf (markGroup (.fence .dev)) (.strand 1 0) = { seq := 3, kind := .fence .dev, isLd := true, isSt := true } :: [lateStore] ∧
    getGroup (state ctx (markGroup .mark)) 1 = some (markGroup .mark) :=
  ⟨fun n h => ⟨ready_all _ _ _ _ rfl (by decide +kernel) n h, ready_all _ _ _ _ rfl (by decide +kernel) n h⟩, by decide +kernel⟩

/-- A group whose strand's list is another. -/
def listGroup (l : List Entry) : Group := with_ { strand with acc := l }
/-- A load of the bytes at an offset of 0x203000, sent. -/
def sentLoad (off : Nat) : Entry :=
  { seq := 1, kind := .load .b32 false false false 10, isLd := true, isSt := false, sent := true
    parts := [{ addr := 0x3000 + off, pa := 0x203000 + off, place := .home 0 64, len := 4 }] }

theorem witness_memoryQueueSend : (∀ l ∈ [[sentLoad 0], [sentLoad 0, lateStore], [sentLoad 0x10, lateStore]],
      getGroup (state ctx (listGroup l)) 1 = some (listGroup l) ∧ accOf (listGroup l) (.strand 1 0) = l ∧ (listGroup l).state ≠ .saved ∧
      ∀ x ∈ l, x.blocks = false ∧ ∀ pos c, x.kind ≠ .arrive pos c) ∧
    (sentLoad 0).sent = true ∧ lateStore.sent = false ∧ lateStore.isSt = true ∧ (sentLoad 0).isSt = false ∧ (sentLoad 0).seq ≠ lateStore.seq ∧
    (sentLoad 0).acquires = false ∧ lateStore.isLd = false ∧ lateStore.releases = false ∧
    (∀ q ∈ (sentLoad 0).parts, ∀ p ∈ lateStore.parts, p.meets q = false) ∧ (∃ q ∈ (sentLoad 0x10).parts, q.done = false ∧ ∃ p ∈ lateStore.parts, p.meets q = true) ∧
    getGroup (state ctx { markGroup .mark with state := .saved }) 1 = some { markGroup .mark with state := .saved } := by
  refine ⟨fun l hl => ?_, by decide +kernel⟩
  simp only [List.mem_cons, List.not_mem_nil, or_false] at hl
  rcases hl with rfl | rfl | rfl <;> refine ⟨by decide +kernel, rfl, nofun, ?_⟩ <;> simp [sentLoad, lateStore, Entry.blocks]

/-- Barrier 3 with arrivals, its strand waiting or having arrived. -/
def barGroup (x : Barrier) (a : List (Nat × Bool × DWord)) : Group :=
  let g := with_ { strand with barArrived := a }
  { g with barriers := g.barriers.set 3 x }

theorem witness_Barriers : (∀ n ∈ [needBar (.imm8 32), needBar (.imm8 33)], Ready s0 v0 {} n ∧ Ready s0 v0 hNever n ∧
      Ready (state ctx (barGroup { doneAt := some 100 } [(3, false, 0)])) (view ctx (barGroup { doneAt := some 100 } [(3, false, 0)])) {} n ∧
      Ready (state ctx (barGroup {} [(3, true, 0)])) (view ctx (barGroup {} [(3, true, 0)])) {} n) ∧
    (v0.wordB (.imm8 32)).toNat % 64 = 32 ∧ (v0.wordB (.imm8 33)).toNat % 64 = 33 ∧
    getGroup (state ctx (barGroup { arr := 3, exp := 3 } [])) 1 = some (barGroup { arr := 3, exp := 3 } []) ∧
    (barGroup { arr := 3, exp := 3 } []).state = .resident ∧ (barGroup { arr := 2, exp := 3 } []).barriers[3].arr < 3 ∧
    (with_ { strand with barArrived := [(3, false, 0)], wait := some { kind := .bar 3, since := 3, len := 8 } }).strands.length = 1 :=
  ⟨fun n h => ⟨ready_all _ _ _ _ rfl (by decide +kernel) n h, ready_all _ _ _ _ rfl (by decide +kernel) n h,
    ready_all _ _ _ _ rfl (by decide +kernel) n h, ready_all _ _ _ _ rfl (by decide +kernel) n h⟩, by decide +kernel⟩

/-- A gang of one of which the strand's group is position 0. -/
def cleatState (k : Cleat) : State := putCore s0 0 ((getCore s0 0).putCleat 5 k)
/-- Its view. -/
def cleatView (k : Cleat) : View := viewIn (cleatState k) ctx group
/-- A cleat of the group's own. -/
def ownCleat : Cleat := { owner := some 1, armed := true, expect := 3, count := 1 }

/-- An arrival of one at a cleat, from the group or from another gang. -/
def arrival (grid : Nat) : Arrival := { n := 2, gid := 1, grid, gangix := 0 }

theorem witness_Cleats : (∀ n ∈ [{ needCleat (.imm8 3) with noRegion := true, preds := [1] }, { needCleat (.imm8 0) with noRegion := true, preds := [1] },
      { needCleat (.imm32 4096) with noRegion := true, drained := true }, { needCleat (.imm8 3) with noRegion := true, drained := true },
      { needCleat (.imm8 1) with preds := [1] }], Ready s0 v0 {} n ∧ Ready s0 v0 hNever n ∧ Ready (cleatState ownCleat) (cleatView ownCleat) {} n ∧
      Ready (cleatState { ownCleat with owner := some 2 }) (cleatView { ownCleat with owner := some 2 }) {} n) ∧
    (getCore (cleatState ownCleat) 0).cleat 5 = ownCleat ∧ (v0.wordB (.imm32 4096)).toNat % 4096 = 0 ∧ (v0.wordB (.imm8 3)).toNat % 4096 = 3 ∧
    v0.g.gangsize ≤ 1 ∧ 0 < v0.g.gangsize ∧
    (gangMember (View.put { v0.charge { needCleat (.imm8 3) with noRegion := true, drained := true } with st := v0.passed 8 }) group 0).any
      (fun g => g.state != .saved) = true ∧
    (getCore (cleatState { ownCleat with arrivals := [arrival 1] }) 0).cleat 5 = { ownCleat with arrivals := [arrival 1] } ∧
    (arrival 1).grid = group.grid ∧ (arrival 1).gangix = group.gangix ∧ ownCleat.settledAt = none ∧ 1 ≤ ownCleat.expect ∧
    (getCore (cleatState { ownCleat with count := 7 }) 0).cleat 5 = { ownCleat with count := 7 } ∧
    (getCore (cleatState { arrivals := [arrival 1] }) 0).cleat 5 = { arrivals := [arrival 1] } ∧ getGroup s0 1 = some group ∧
    ownCleat.phase = false ∧ ({ ownCleat with settledAt := some 100 } : Cleat).settledAt = some s0.clock :=
  ⟨fun n h => ⟨ready_all _ _ _ _ rfl (by decide +kernel) n h, ready_all _ _ _ _ rfl (by decide +kernel) n h,
    ready_all _ _ _ _ rfl (by decide +kernel) n h, ready_all _ _ _ _ rfl (by decide +kernel) n h⟩, by decide +kernel⟩

/-- A Capstan that waits. -/
def capWaits (w : CWait) : Group := { capGroup with cap := some { wait := some w } }
/-- Its view. -/
def capView (g : Group) : CapView := { s := state ctx g, c := ctx, g, k := g.cap.getD {} }
/-- Tile 40, held by the Capstan in `group`, offered to it since clock 99. -/
def offered (g : Group) (o : Owner) : Group := { g with owner := aset g.owner 40 o }

theorem witness_Waits : (∀ n ∈ [needCleat (.imm8 2), needCleat (.imm8 0)], Ready s0 v0 {} n ∧ Ready s0 v0 hNever n ∧
      Ready (state ctx { group with paths := group.paths.set 0 [{ seq := 1 }, { seq := 2 }] })
        (view ctx { group with paths := group.paths.set 0 [{ seq := 1 }, { seq := 2 }] }) {} n) ∧
    viewOf (state ctx (waiting (.waitp 0 2))) 1 0 0 0 = some (view ctx (waiting (.waitp 0 2))) ∧
    viewOf (state ctx (waiting (.clwait true 2 5 false))) 1 0 0 0 = some (view ctx (waiting (.clwait true 2 5 false))) ∧
    capViewOf (state ctx (capWaits (.waitp 0 2))) 1 = some (capView (capWaits (.waitp 0 2))) ∧
    capViewOf (state ctx (capWaits (.clwait true 5 false))) 1 = some (capView (capWaits (.clwait true 5 false))) ∧
    capViewOf (state ctx (offered (capWaits (.take 40)) (.offeredCapstan 99 0 2))) 1 =
      some (capView (offered (capWaits (.take 40)) (.offeredCapstan 99 0 2))) ∧
    (offered (capWaits (.take 40)) (.offeredCapstan 99 0 2)).ownerOf 40 = .offeredCapstan 99 0 2 ∧ tilePending capGroup 40 = false ∧
    writeEntry capGroup 40 = false ∧ readEntry capGroup 40 = false ∧ capGroup.state = .resident :=
  ⟨fun n h => ⟨ready_all _ _ _ _ rfl (by decide +kernel) n h, ready_all _ _ _ _ rfl (by decide +kernel) n h,
    ready_all _ _ _ _ rfl (by decide +kernel) n h⟩, rfl, rfl, rfl, rfl, rfl, by decide +kernel⟩

/-! ### Ownership, control flow, traps and CSRs -/

theorem witness_ScoreTable : (∀ n ∈ [{ needV .mem .f32 [] [(1, 9)] (.v 10) [] with noRegion := true },
      { port := .mem, len := 16, sregs := [6], path := some 2 }], Ready vW.s vW {} n ∧
      Ready (state ctx { capGroup with sregs := [(6, 0xFF0)] }) (view ctx { capGroup with sregs := [(6, 0xFF0)] }) {} n ∧
      Ready (state ctx { capGroup with sregs := [(6, 0x21)] }) (view ctx { capGroup with sregs := [(6, 0x21)] }) {} n ∧
      Ready (state ctx capGroup) (view ctx capGroup) hNever n) ∧
    (vW.wordB (.imm32 0x00021FFF)).toNat / 2 ^ 16 % 2 ^ 13 = 2 ∧ (vW.wordB (.imm32 0x3)).toNat / 2 ^ 16 % 2 ^ 13 = 0 ∧
    0xFF0 + 8 * 2 = capGroup.shbytes ∧ capGroup.shbytes < 0xFF0 + 8 * 3 ∧ 0xFF0 % 8 = 0 ∧ 0x21 % 8 ≠ 0 :=
  ⟨fun n h => ⟨ready_all _ _ _ _ rfl (by decide +kernel) n h, ready_all _ _ _ _ rfl (by decide +kernel) n h,
    ready_all _ _ _ _ rfl (by decide +kernel) n h, ready_all _ _ _ _ rfl (by decide +kernel) n h⟩, by decide +kernel⟩

theorem witness_CounterReads : ∀ n ∈ [{ port := .ctl, len := 8, sregs := [6, 7] }, { port := .ctl, len := 8, sregs := [6] },
      ({ port := .ctl, len := 8, noRegion := true } : Need)], Ready s0 v0 {} n ∧ Ready s0 v0 hNever n ∧
      Ready (cleatState ownCleat) (cleatView ownCleat) {} n :=
  fun n h => ⟨ready_all _ _ _ _ rfl (by decide +kernel) n h, ready_all _ _ _ _ rfl (by decide +kernel) n h,
    ready_all _ _ _ _ rfl (by decide +kernel) n h⟩

/-- A strand with nothing at slot 3, tile 40 offered to it there. -/
def slotGroup (o : Owner) : Group :=
  offered { capGroup with strands := [{ strand with q := strand.q.set 3 0 }] } o

theorem witness_TileOwnership : (∀ n ∈ [{ port := .ctl, len := 8, noRegion := true }, needV .ctl .b32 [(0, 4)] [] (.imm8 3) []],
      Ready s0 v0 {} n ∧ Ready s0 v0 hNever n ∧ Ready (state ctx capGroup) (view ctx capGroup) {} n ∧
      Ready (state ctx (slotGroup (.offeredStrand 0 3 99 2))) (view ctx (slotGroup (.offeredStrand 0 3 99 2))) {} n ∧
      Ready (state ctx (slotGroup (.offeredStrand 0 3 100 2))) (view ctx (slotGroup (.offeredStrand 0 3 100 2))) {} n) ∧
    capGroup.capBound = true ∧ (view ctx capGroup).st.q[3].getLsbD 15 = true ∧
    (view ctx (slotGroup .capstan)).st.q[3].getLsbD 15 = false ∧
    offerTo (slotGroup (.offeredStrand 0 3 99 2)) 0 3 = some (40, 99, 2) ∧ offerTo (slotGroup .capstan) 0 3 = none ∧
    tilePending (slotGroup (.offeredStrand 0 3 99 2)) 40 = false ∧ writeEntry (slotGroup (.offeredStrand 0 3 99 2)) 40 = false ∧
    readEntry (slotGroup (.offeredStrand 0 3 99 2)) 40 = false ∧
    (view ctx (waiting (.take 3))).st.wait = some { kind := .take 3, since := 3, len := 16 } :=
  ⟨fun n h => ⟨ready_all _ _ _ _ rfl (by decide +kernel) n h, ready_all _ _ _ _ rfl (by decide +kernel) n h,
    ready_all _ _ _ _ rfl (by decide +kernel) n h, ready_all _ _ _ _ rfl (by decide +kernel) n h,
    ready_all _ _ _ _ rfl (by decide +kernel) n h⟩, by decide +kernel⟩

/-- P1 holds in every lane of EM, P0 in some, P2 in none. -/
def branchGroup : Group :=
  { with_ { strand with live := 0x00FFFFFF, em := 0x000FFFFF, pc := 0x100, p := #v[0x0000FFFF, 0xFFFFFFFF, 0, 0, 0, 0, 0] } with
      sregs := [(6, 0x80), (8, 4)], regs := (List.range 32).map fun k => (288 + k, if k = 5 then 0x20 else 0x40, 0xFF) }
/-- Its view. -/
def vB : View := view ctx branchGroup

theorem witness_ControlFlow : (∀ n ∈ [{ port := .ctl, len := 8 }, { port := .ctl, len := 8, sregs := [6, 7] }, { port := .ctl, len := 8, sregs := [8, 9] },
      { port := .ctl, len := 8, named := [(0, 8), (0, 9)] }, { port := .ctl, len := 8, named := [(1, 9), (1, 10)] },
      ({ port := .ctl, len := 8, named := [(1, 11), (1, 12)] } : Need)], Ready vB.s vB {} n ∧ Ready vB.s vB hP0 n ∧
      Ready vB.s vB { p := 1 } n ∧ Ready vB.s vB { p := 2 } n ∧ Ready vB.s vB hNever n) ∧
    vB.st.acting { p := 1 } = vB.st.em ∧ vB.st.acting { p := 2 } = 0 ∧ vB.st.acting hP0 ≠ vB.st.em ∧ vB.st.acting hP0 ≠ 0 ∧
    (readS vB.g 7 ++ readS vB.g 6).toNat % 8 = 0 ∧ (readS vB.g 9 ++ readS vB.g 8).toNat % 8 = 4 ∧
    vB.pair 9 0 ≠ vB.pair 9 5 ∧ vB.pair 11 0 = vB.pair 11 5 ∧ vB.st.live &&& ~~~(vB.st.acting {}) ≠ 0 ∧
    v0.st.live &&& ~~~(v0.st.acting {}) = 0 ∧ vB.st.em.getLsbD 0 = true :=
  ⟨fun n h => ⟨ready_all _ _ _ _ rfl (by decide +kernel) n h, ready_all _ _ _ _ rfl (by decide +kernel) n h,
    ready_all _ _ _ _ rfl (by decide +kernel) n h, ready_all _ _ _ _ rfl (by decide +kernel) n h,
    ready_all _ _ _ _ rfl (by decide +kernel) n h⟩, by decide +kernel⟩

/-- A trap block with a handler at 0x4000 and a record for strand 0: kind 0, an FP64 FADD at 0x500. -/
def trapMem (handler iw : Nat) : Memory :=
  [(0x208000, handler), (0x208100, 0x03), (0x208108, 0x500), (0x208110, 0x508), (0x208118, 0xF), (0x208128, 0xFFFF), (0x208130, iw)].foldl
    (fun m e => writeNat m e.1 8 e.2) (placedTables [])
/-- A state with it. -/
def trapState (handler iw : Nat) (c : Ctx) (g : Group) : State := { state c g with mem := trapMem handler iw }
/-- A strand in its handler. -/
def handling : Group := with_ { strand with handler := some { masked := true, cause := 3, kind := 0 } }

theorem witness_TrapInstructions : (∀ n ∈ [{ port := .ctl, len := 8 }, ({ port := .ctl, len := 16 } : Need)],
      Ready (trapState 0x4000 0 ctx group) (viewIn (trapState 0x4000 0 ctx group) ctx group) {} n ∧
      Ready (trapState 0 0 ctx group) (viewIn (trapState 0 0 ctx group) ctx group) {} n ∧
      Ready (trapState 0x4000 0 ctx handling) (viewIn (trapState 0x4000 0 ctx handling) ctx handling) {} n ∧
      Ready (state { ctx with breakpoints := true } group) (view { ctx with breakpoints := true } group) {} n ∧ Ready s0 v0 hNever n) ∧
    (viewIn (trapState 0x4000 0 ctx group) ctx group).takesTraps ∧ sysNat (trapState 0 0 ctx group) ctx ctx.trapvec 8 = 0 ∧
    (fieldsOf 0xF3E70A0200000000 0).hd = {} ∧ wordBytes 0xF3E70A0200000000 = 8 :=
  ⟨fun n h => ⟨ready_all _ _ _ _ rfl (by decide +kernel) n h, ready_all _ _ _ _ rfl (by decide +kernel) n h,
    ready_all _ _ _ _ rfl (by decide +kernel) n h, ready_all _ _ _ _ rfl (by decide +kernel) n h,
    ready_all _ _ _ _ rfl (by decide +kernel) n h⟩,
   ⟨rfl, by decide +kernel, by decide +kernel, by decide +kernel, by decide +kernel, rfl⟩, by decide +kernel⟩

theorem witness_TrapReturns : (∀ n ∈ [{ port := .ctl, len := 8, sent := true }, ({ port := .ctl, len := 8, sent := true, named := [(1, 6), (1, 7)] } : Need)],
      Ready (trapState 0x4000 0x30D70A0204000000 ctx handling) (viewIn (trapState 0x4000 0x30D70A0204000000 ctx handling) ctx handling) {} n ∧
      Ready (trapState 0x4000 0xE0E3000001008000 ctx handling) (viewIn (trapState 0x4000 0xE0E3000001008000 ctx handling) ctx handling) {} n ∧
      Ready s0 v0 {} n) ∧
    (handling.strands.headD {}).handler ≠ none ∧ v0.st.handler = none ∧
    (∀ iw ∈ [0x30D70A0204000000, 0xE0E3000001008000], (viewIn (trapState 0x4000 iw ctx handling) ctx handling).tretStop = none ∧
      (viewIn (trapState 0x4000 iw ctx handling) ctx handling).st.mapped 10 = true ∧
      (viewIn (trapState 0x4000 iw ctx handling) ctx handling).st.actsOnce {} = true) ∧
    sysNat (trapState 0x4000 0 ctx handling) ctx (ctx.trapvec + 0x100) 8 / 2 ^ 8 % 4 = 0 ∧
    (match decodeWords 0x30D70A0204000000 0 with
      | .ok i => emuDest i == some (10, true, some (.f64, 1))
      | .error _ => false) = true ∧
    (match decodeWords 0xE0E3000001008000 0 with
      | .ok i => emuDest i == none
      | .error _ => false) = true :=
  ⟨fun n h => ⟨ready_all _ _ _ _ rfl (by decide +kernel) n h, ready_all _ _ _ _ rfl (by decide +kernel) n h,
    ready_all _ _ _ _ rfl (by decide +kernel) n h⟩, by decide +kernel⟩

/-- A trap block with a handler and a Capstan's record of strand 0 (KIND 1), its resumption point and CSTAT. -/
def capTrapMem (sresume cstat : Nat) : Memory :=
  [(0x208000, 0x4000), (0x208100, 0x106), (0x208108, 0x500), (0x208110, 0x508), (0x208128, 0xFFFF), (0x208900, sresume * 2 ^ 16), (0x208910, 0x40),
   (0x209A90, cstat), (0x209AE8, 0x80)].foldl (fun m e => writeNat m e.1 8 e.2) (placedTables [])
/-- A handler in a group with a Capstan. -/
def capHandling : Group := { handling with capBound := true, cap := some {} }
/-- A state with both. -/
def capReturnState (sresume cstat : Nat) : State := { state ctx capHandling with mem := capTrapMem sresume cstat }
/-- Its view. -/
def capReturnView (sresume cstat : Nat) : View := viewIn (capReturnState sresume cstat) ctx capHandling
/-- A handler for an FADD.F64 whose destination is still to be written. -/
def busyEmu : Group := with_ { handling.strands.headD {} with
  flights := [{ seq := 5, issuedAt := 80, landAt := 120, v := [{ tile := 1, reg := 2, lane := 3, word := 0, tag := 0 }] }] }

/-- Their blocks can be read. -/
theorem tret_free (s : State) (v : View) (hs : v.s = s) (hc : v.c = ctx) (hj : v.j = 0) (hm : Mapped s) : v.tretStop = none := by
  simp [View.tretStop, hs, hc, hj, (block_free s 0x100 64 (by omega) hm).1, (block_free s 0x900 64 (by omega) hm).1,
    (block_free s 0x1000 0xAF0 (by omega) hm).1]

theorem witness_capstan_returns : (∀ n ∈ [{ port := .ctl, len := 8, sent := true }, ({ port := .ctl, len := 8, sent := true, named := [(1, 6), (1, 7)] } : Need)],
      Ready (capReturnState 3 0x2100) (capReturnView 3 0x2100) {} n ∧ Ready (capReturnState 8 0) (capReturnView 8 0) {} n ∧
      Ready (capReturnState 3 0x40) (capReturnView 3 0x40) {} n ∧
      Ready (trapState 0x4000 0x30D70A0204000000 ctx busyEmu) (viewIn (trapState 0x4000 0x30D70A0204000000 ctx busyEmu) ctx busyEmu) {} n) ∧
    ((capReturnView 3 0x2100).tretStop = none ∧ (capReturnView 8 0).tretStop = none ∧ (capReturnView 3 0x40).tretStop = none) ∧
    sysNat (capReturnState 8 0) ctx (ctx.trapvec + 0x100) 8 / 2 ^ 8 % 4 ≠ 0 ∧
    sysNat (capReturnState 8 0) ctx (ctx.trapvec + 0x900) 8 / 2 ^ 16 % 16 = 8 ∧ sysNat (capReturnState 3 0x2100) ctx (ctx.trapvec + 0x1A90) 4 = 0x2100 ∧
    sysNat (capReturnState 3 0x40) ctx (ctx.trapvec + 0x1A90) 4 = 0x40 ∧
    (0x2100 / 2 ^ 8 % 32 ≤ 24 ∧ 0x2100 / 2 ^ 6 % 4 = 0 ∧ 0x2100 / 2 ^ 14 % 2 ^ 18 = 0) ∧ ¬ 0x40 / 2 ^ 6 % 4 = 0 ∧
    (capHandling.strands.headD {}).handler ≠ none ∧ (capReturnView 3 0x2100).st.actsOnce {} = true ∧ capHandling.cap = some {} ∧
    (viewIn (trapState 0x4000 0x30D70A0204000000 ctx busyEmu) ctx busyEmu).emuBusy {} = true :=
  ⟨fun n h => ⟨ready_all _ _ _ _ rfl (by decide +kernel) n h, ready_all _ _ _ _ rfl (by decide +kernel) n h,
    ready_all _ _ _ _ rfl (by decide +kernel) n h, ready_all _ _ _ _ rfl (by decide +kernel) n h⟩,
   ⟨tret_free _ _ rfl rfl rfl (by decide +kernel), tret_free _ _ rfl rfl rfl (by decide +kernel), tret_free _ _ rfl rfl rfl (by decide +kernel)⟩,
   by decide +kernel⟩
theorem witness_ControlRegisters : (∀ n ∈ [{ port := .ctl, len := 8, named := [(0, 9)] }, { port := .ctl, len := 8, noRegion := true },
      ({ port := .ctl, len := 8, sregs := [6], noRegion := true } : Need)], Ready vW.s vW {} n ∧ Ready vW.s vW hNever n) ∧
    (vW.wordB (.imm8 53)).toNat = 53 ∧ (vW.wordB (.imm8 54)).toNat = 54 ∧ (vW.wordB (.imm8 8)).toNat = 8 ∧ (vW.wordB (.imm8 0)).toNat = 0 :=
  ⟨fun n h => ⟨ready_all _ _ _ _ rfl (by decide +kernel) n h, ready_all _ _ _ _ rfl (by decide +kernel) n h⟩, by decide +kernel⟩

/-- A strand inside a region. -/
def inRegion : Group := with_ { strand with active := true }

theorem witness_Regions : (∀ n ∈ [({ port := .ctl, len := 8 } : Need)], Ready s0 v0 { y := true } n ∧
      Ready (state ctx inRegion) (view ctx inRegion) { y := true } n) ∧
    (∀ n ∈ [{ needM true .b32 (dataRegs 0 .b32 4) (.s 10) (.v 3) [] (some 1) with noRegion := true, noRecompute := true, readsD := true },
        { needM true .b32 [(0, 4)] (.s 10) (.v 3) [(3, 5)] (some 0) with noRegion := true, noRecompute := true },
        { needM true .b32 (wideRegs 0 true 4) (.s 10) (.v 3) (wideRegs 3 true 6) (some 0) with noRegion := true, noRecompute := true, readsD := true },
        { needM false .b32 [(0, 4)] (.s 10) (.v 3) [(3, 5)] (some 2) with noRegion := true },
        { needM false .b32 (wideRegs 0 false 4) (.s 8) (.v 3) (wideRegs 3 false 6) (some 2) with noRegion := true, readsD := true },
        { needM true .b32 [] (.s 10) (.v 3) [(3, 5)] (some 1) with noRegion := true, noRecompute := true },
        { needPair 20 (.imm8 64) with path := some 1, noRegion := true, noRecompute := true },
        { port := .ctl, len := 8, noRegion := true }, needBar (.imm8 3), { needCleat (.imm8 3) with noRegion := true, preds := [1] },
        { needCleat (.imm8 3) with noRegion := true, drained := true }, { needV .mem .f32 [] [(1, 9)] (.v 10) [] with noRegion := true },
        { port := .ctl, len := 8, noRegion := true, noRecompute := true, drained := true },
        { port := .ctl, len := 8, sregs := [6], noRegion := true }, needLaunch 20 1,
        { port := .ctl, len := 8, noRegion := true, noRecompute := true, sregs := [20, 21], preds := [1] },
        { port := .mem, len := 8, coll := true, path := some 5, noRegion := true, noRecompute := true, sregs := [4, 20, 21, 10, 11], drained := true },
        needTkstat 4 10 (.s 7), needTkreform 10 12 1, needCopy 16, kvNeed (.imm8 0) [6, 7],
        { needTable 10 (.s 4) with preds := [1] }, { needTable 10 (.s 4) with path := none, preds := [1] }],
      (view ctx inRegion).canIssue {} n = true ∧ (view ctx inRegion).st.unowned n.named = none) ∧
    ((state ctx inRegion).hasFeature = true ∧ 0 < inRegion.gangsize ∧ inRegion.gangpos = 0 ∧
    copyRoom (state ctx inRegion) inRegion ((view ctx inRegion).copyArgs false 0 16).flags = true ∧
    (view ctx { inRegion with capBound := true, cap := some {} }).canIssue {} { needV .mem .f32 [] [(1, 9)] (.v 10) [] with noRegion := true } = true ∧
    (view ctx inRegion).st.active = true ∧ (view ctx inRegion).st.handler = none) ∧ curView (state ctx inRegion) = some (view ctx inRegion) :=
  ⟨fun n h => ⟨ready_all _ _ _ _ rfl (by decide +kernel) n h, ready_all _ _ _ _ rfl (by decide +kernel) n h⟩, by decide +kernel,
   by decide +kernel, rfl⟩

/-! ### Queues -/

/-- A launch record of one strand with 32 tiles at 0x1000, one that breaks R334 at 0x1080, a counter of 5 at 0x2000, a spill
list of 8 entries. -/
def queueMem : Memory :=
  [(0x201008, 2 ^ 32 + 32 * 2 ^ 40), (0x201038, 2 ^ 32 + 1), (0x202000, 5), (0x208010, 0x9000), (0x208018, 8)].foldl
    (fun m e => writeNat m e.1 8 e.2) (placedTables [])
/-- A group whose S20, S21 hold an address. -/
def addrGroup (a : Nat) : Group := { group with sregs := [(20, BitVec.ofNat 32 a)] }
/-- A state with that memory. -/
def queueState (g : Group) : State := { state ctx g with mem := queueMem }
/-- Its view. -/
def queueView (g : Group) : View := viewIn (queueState g) ctx g
/-- A join's needs. -/
def joinNeed (x : BSrc) : Need := { port := .ctl, len := x.len, noRegion := true, noRecompute := true, sregs := [20, 21] ++ x.ss .f64, preds := [1] }
/-- Four records pending. -/
def fullGroup (g : Group) : Group := { g with pendingL := (List.range 4).map fun k => { grid := k, seq := k } }

theorem witness_LaunchesAndJoins : (∀ n ∈ [needLaunch 20 1, joinNeed (.imm8 5), joinNeed (.imm8 6)],
      Ready (queueState (addrGroup 0x1000)) (queueView (addrGroup 0x1000)) {} n ∧ Ready (queueState (addrGroup 0x1080)) (queueView (addrGroup 0x1080)) {} n ∧
      Ready (queueState (addrGroup 0x2004)) (queueView (addrGroup 0x2004)) {} n ∧ Ready (queueState (addrGroup 0x2000)) (queueView (addrGroup 0x2000)) {} n ∧
      Ready s0 v0 hNever n) ∧
    readSys (queueState (addrGroup 0x1000)) ctx .load 0x1000 128 = .bytes (readBytes queueMem 0x201000 128) ∧
    recordFault (recordWords (readBytes queueMem 0x201000 128)) = none ∧ recordFault (recordWords (readBytes queueMem 0x201080 128)) = some 1 ∧
    readSys (queueState (addrGroup 0x2000)) ctx .load 0x2000 8 = .bytes (readBytes queueMem 0x202000 8) ∧ leNat (readBytes queueMem 0x202000 8) = 5 ∧
    (view ctx (waiting (.launch 2 0x1000 7))).launchBehind 3 = false ∧
    spillRoom (queueState (fullGroup group)) ctx = true ∧ spillRoom (state ctx (fullGroup group)) ctx = false ∧
    (view ctx (waiting (.launch 2 0x1000 7))).st.wait = some { kind := .launch 2 0x1000 7, since := 3, len := 16 } ∧ 3 + 40 ≤ s0.clock ∧
    (view ctx (waiting (.join 2 0x2000 5))).st.wait = some { kind := .join 2 0x2000 5, since := 3, len := 16 } :=
  ⟨fun n h => ⟨ready_all _ _ _ _ rfl (by decide +kernel) n h, ready_all _ _ _ _ rfl (by decide +kernel) n h,
    ready_all _ _ _ _ rfl (by decide +kernel) n h, ready_all _ _ _ _ rfl (by decide +kernel) n h,
    ready_all _ _ _ _ rfl (by decide +kernel) n h⟩, by decide +kernel⟩

/-- A group whose S16 to S23 describe a copy of `len` bytes from 0x1000 to 0x3000. -/
def copyGroup (len : Nat) : Group := { group with sregs := [(16, 0x3000), (18, 0x1000), (20, BitVec.ofNat 32 len)] }
/-- That copy in channel 0. -/
def copyOf (started : Bool) (path : Nat) : Copy :=
  { seq := 9, gid := 1, g := false, path, dst := 0x3000, src := 0x1008, len := 4, shape := 0, flags := 0, issuer := .strand 1 0, upto := 9, started }
/-- The state. -/
def copyState (k : Copy) : State := putCore (queueState group) 0 { getCore (queueState group) 0 with ch0 := [k] }
/-- What its bytes meet. -/
def copied : List (Byte × Nat) := [(0, 0x203000), (0, 0x203001), (0, 0x203002), (0, 0x203003)]

theorem witness_Copies : (∀ n ∈ [needCopy 16], Ready (state ctx (copyGroup 4)) (view ctx (copyGroup 4)) {} n ∧
      Ready (state ctx (copyGroup 4)) (view ctx (copyGroup 4)) hNever n) ∧
    (getCore (copyState (copyOf true 0)) 0).chan 0 = [copyOf true 0] ∧ (getCore (copyState (copyOf false 0)) 0).chan 0 = [copyOf false 0] ∧
    accOf group (.strand 1 0) = [] ∧ (∃ e ∈ accOf (with_ { strand with acc := [lateStore] }) (.strand 1 0), e.seq < (copyOf false 0).upto) ∧
    copyMeets (copyState (copyOf true 0)) ctx group (copyOf true 0) = copied.map (fun e => (CopyMeet.byte e.1, CopyMeet.place e.2)) ∧
    headCopy (copyState { copyOf true 6 with sentOut := true }) 0 0 = some { copyOf true 6 with sentOut := true } ∧
    fabricCtx s0 0 0 = some ctx ∧ fabricCtx s0 1 0 = none :=
  ⟨fun n h => ⟨ready_all _ _ _ _ rfl (by decide +kernel) n h, ready_all _ _ _ _ rfl (by decide +kernel) n h⟩, by decide +kernel⟩

theorem witness_copy_stops : ∃ cause reason addr,
    firstStop (copyMeets s0 ctx group { copyOf true 0 with dst := 2 ^ 56 }) = some (.fail cause reason addr) := ⟨1, 6, 2 ^ 56, by decide +kernel⟩

theorem witness_CopyMovesBytes : Memory.wf (copyState (copyOf true 0)).mem = true ∧ dstShared 0 = false ∧ (copyOf true 0).did = [] ∧ (copyState (copyOf true 0)).l2 = [] ∧ (copied.map (·.2)).Nodup ∧
    ∀ e ∈ copied, e.2 ∉ copySources (copyState (copyOf true 0)) ctx group (copyOf true 0) := by decide +kernel

/-- A tackle at 0x6000 with two members, this die's of rank 0. -/
def tackle : Tackle := { addr := 0x6000, ctx := 1, die := 0, rank := 0, tkid := 0x77, gen := 3, nmem := 2, cap := 4, entries := [(0, 0), (1, 0)], nextseq := 5 }
/-- A collective of it: a barrier, sent or not. -/
def coll (sent : Bool) (msgs : List CollMsg) : Coll :=
  { seq := 4, gen := 3, gid := 1, core := 0, opseq := 2, kind := .barrier, fmt := .b32, count := 0, rop := 0, root := 0, rank := 0, src := 0, dst := 0,
    stat := 0, cleat := 0, cle := false, msgs, sent }
/-- A message of rank r. -/
def msg (r : Nat) : CollMsg := { gen := 3, seq := 4, rank := r, kind := .barrier, fmt := .b32, count := 0, rop := 0, root := 0, bytes := [] }
/-- A descriptor at 0x1000 for rank 0, the tackle's address in S10; a list of the same two members at 0x7000. -/
def collGroup (a : Nat) : Group := { group with sregs := [(20, BitVec.ofNat 32 a), (10, 0x6000), (12, 0x7000)] }
/-- A state with the tackle. -/
def collState (x : Tackle) (g : Group) : State :=
  let m := [(0x207000, 3 * 2 ^ 32 + 2 * 2 ^ 48), (0x207040, 0), (0x207048, 1)].foldl (fun m e => writeNat m e.1 8 e.2) (placedTables [])
  { state ctx g with mem := m, tackles := [x] }
/-- Its view. -/
def collView (x : Tackle) (g : Group) : View := viewIn (collState x g) ctx g
/-- COLL's needs with Sd 4, the descriptor in S20, the tackle in S10. -/
def collNeed : Need :=
  { port := .mem, len := 8, coll := true, sregs := [4, 20, 21, 10, 11], path := some 5, noRegion := true, noRecompute := true, drained := true }
/-- TKREFORM's and TKSTAT's needs. -/
def tkNeeds : List Need := [needTkreform 10 12 1, needTkstat 4 10 (.imm32 0x30004)]

theorem witness_status_page_away : ∃ rank cause extra va,
    checkSys (collState tackle (collGroup 0x1000)) ctx .store (2 ^ 26 * 65536) 8 = .fail rank cause extra va ∧ awayRank rank = true :=
  ⟨_, _, _, _, rfl, by decide +kernel⟩

theorem witness_Collectives : (∀ n ∈ collNeed :: tkNeeds, Ready (collState tackle (collGroup 0x1000)) (collView tackle (collGroup 0x1000)) {} n ∧
      Ready (collState tackle (collGroup 0x1020)) (collView tackle (collGroup 0x1020)) {} n ∧ Ready s0 v0 hNever n ∧
      Ready (collState { tackle with aborted := true } (collGroup 0x1000)) (collView { tackle with aborted := true } (collGroup 0x1000)) {} n) ∧
    readSys (collState tackle (collGroup 0x1000)) ctx .load 0x1000 64 = .bytes (List.replicate 64 0) ∧
    collMember (collState tackle (collGroup 0x1000)) 1 0 (readSS (collGroup 0x1000) 10).toNat .barrier .b32 (collDesc (List.replicate 64 0)) = some (0, tackle) ∧
    collMember (collState tackle (collGroup 0x1000)) 1 0 0x6040 .barrier .b32 (collDesc (List.replicate 64 0)) = none ∧
    tackle.pending.length < 16 ∧ 16 ≤ ({ tackle with pending := List.replicate 16 (coll false []) } : Tackle).pending.length ∧
    (tackle.gen ≠ 2 % 65536) ∧ (tacklesAt (collState tackle (collGroup 0x1000)) 1 0 0x6000).head? = some (0, tackle) ∧
    (tackle.nextseq + 65536 - 4 - 1) % 65536 < 64 ∧ ¬ (tackle.nextseq + 65536 - 0xF000 - 1) % 65536 < 64 ∧
    (∃ p ∈ ({ tackle with pending := [coll false []] } : Tackle).pending, p.seq = 4 ∧ p.gen = tackle.gen) ∧
    tackle.early = [] ∧ ctx.ended = none ∧
    (view ctx (waiting (.tkstat 4 0 0x30004))).st.wait = some { kind := .tkstat 4 0 0x30004, since := 3, len := 16 } ∧
    (collState tackle group).tackles[0]? = some tackle :=
  ⟨fun n h => ⟨ready_all _ _ _ _ rfl (by decide +kernel) n h, ready_all _ _ _ _ rfl (by decide +kernel) n h,
    ready_all _ _ _ _ rfl (by decide +kernel) n h, ready_all _ _ _ _ rfl (by decide +kernel) n h⟩, by decide +kernel⟩

/-- The two bytes lists that TKREFORM reads. -/
def reformBytes (off len : Nat) : List Byte := readBytes (collState tackle (collGroup 0x1000)).mem (0x207000 + off) len

theorem witness_TackleReform : (∀ n ∈ tkNeeds, Ready (collState tackle (collGroup 0x1000)) (collView tackle (collGroup 0x1000)) {} n) ∧
    leNat ((reformBytes 0 64).take 8) / 2 ^ 48 % 2 ^ 13 = 2 ∧ (reformBytes 0 64).length = 64 ∧ (reformBytes 64 16).length = 8 * 2 ∧
    rankIn tackle (listEntries (reformBytes 64 16) 2) = some 0 ∧ tackle.pending = [] ∧
    readSys (collState tackle (collGroup 0x1000)) ctx .load 0x7006 1 = .bytes [2] ∧
    (view ctx (waiting (.tkreform 2 0))).st.wait = some { kind := .tkreform 2 0, since := 3, len := 16 } ∧
    (List.range tackle.nmem).filter (· != tackle.rank) = [1] ∧ (90 : Nat) + ctx.tktimeout.toNat * 1024 < s0.clock :=
  ⟨ready_all _ _ _ _ rfl (by decide +kernel), by decide +kernel⟩

theorem witness_forwarded : ({ tackle with reformSince := some 4, forwarded := true } : Tackle).forwarded = true ∧ tackle.forwarded = false := by decide +kernel

theorem witness_GenerationEnds : (collState { tackle with pending := [coll false []] } group).tackles[0]? = some { tackle with pending := [coll false []] } ∧
    (msg 1).gen = tackle.gen ∧ (msg 1).rank < tackle.nmem ∧ tackle.nmem ≤ (msg 2).rank ∧ tackle.aborted = false ∧
    ([coll false []].find? fun p => p.seq == (msg 1).seq && p.gen == (msg 1).gen && p.fin.isNone) = some (coll false []) ∧
    (∀ p ∈ [coll false []], p.gen = tackle.gen ∧ p.fin = none) ∧ ([coll false []].map (·.opseq)).Nodup ∧ ([coll false []].map (·.seq)).Nodup ∧
    ((msg 1).seq + 65536 - tackle.nextseq) % 65536 = 65535 ∧ (({ msg 1 with seq := 6 } : CollMsg).seq + 65536 - tackle.nextseq) % 65536 = 1 ∧
    ({ msg 1 with count := 1 } : CollMsg).count ≠ (coll false []).count ∧
    getCtx s0 tackle.ctx = some ctx ∧ (coll false []).lastAt + ctx.tktimeout.toNat * 1024 ≤ s0.clock := by decide +kernel

theorem witness_CollectiveEngine : (coll true []).fin = none ∧ (coll true []).gen = tackle.gen ∧ (coll true []).stat = 0 ∧ (collSrcLen (coll false []) 2 = ([] : List Byte).length) ∧ collNeeds (coll true [msg 0]) 2 = [0, 1] ∧
    (∀ r ∈ collNeeds (coll true [msg 0, msg 1]) 2, ∃ m ∈ (coll true [msg 0, msg 1]).msgs, m.rank = r) ∧
    (collResult (coll true [msg 0, msg 1]) 2).length = ([] : List Nat).length ∧ Memory.wf (collState tackle group).mem = true ∧
    ({ tackle with reformSince := some 4 } : Tackle).reformSince ≠ none ∧ (4 + 65536 - tackle.gen) % 65536 = 1 ∧
    (tackle.gen + 32768 + 65536 - tackle.gen) % 65536 = 32768 := by decide +kernel

/-! ### The Capstan -/

/-- The Capstan of a group acts. -/
def capState (g : Group) : State :=
  { state ctx g with cur := some { agent := .capstan 1 }, cores := [(0, { tlb := [{ ctx := 1, base := 0, leaf := .leaf 0x200000 true true true true false 0 }] })] }
/-- Its view. -/
def cap (g : Group) : CapView := { s := capState g, c := ctx, g, k := g.cap.getD {} }
/-- May it issue a bundle of one slot? -/
def bundleReady (v : CapView) (b : Bundle) (ix : Nat) : Bool :=
  v.awake && v.k.part.isNone && v.k.reenter.isNone && !v.late && !illegalBundle b v.g (v.csrWord b) && v.room b 0 && !isExt b ix &&
  slotIxs.all fun n => present b n == (n == ix)
/-- It may. -/
theorem bundle_ready (s : State) (v : CapView) (b : Bundle) (ix : Nat) (hv : curCap s = some v) (hr : bundleReady v b ix = true) :
    BundleReady s v b ix := by
  simp only [bundleReady, Bool.and_eq_true, Bool.not_eq_true', Option.isNone_iff_eq_none, List.all_eq_true, beq_iff_eq] at hr
  obtain ⟨⟨⟨⟨⟨⟨⟨awake, part⟩, reenter⟩, late⟩, legal⟩, room⟩, ext⟩, holds⟩ := hr
  exact ⟨⟨⟨hv, awake, part, reenter, late⟩, legal, room⟩, ext, holds⟩

/-- May it issue a bundle? -/
def bundleMay (v : CapView) (b : Bundle) : Bool :=
  v.awake && v.k.part.isNone && v.k.reenter.isNone && !v.late && !illegalBundle b v.g (v.csrWord b) && v.room b 0
/-- It may. -/
theorem bundle_may (s : State) (v : CapView) (b : Bundle) (hv : curCap s = some v) (hr : bundleMay v b = true) : BundleMay s v b := by
  simp only [bundleMay, Bool.and_eq_true, Bool.not_eq_true', Option.isNone_iff_eq_none] at hr
  obtain ⟨⟨⟨⟨⟨awake, part⟩, reenter⟩, late⟩, legal⟩, room⟩ := hr
  exact ⟨⟨hv, awake, part, reenter, late⟩, legal, room⟩

/-- A bundle that holds some slots, in order of commit. -/
def slotsOnly (l : List Nat) (b : Bundle) : Bundle :=
  let ports := l.flatMap fun ix => List.replicate (aReads b ix) (ix + 1)
  let port : Nat → BitVec 4 := fun k => BitVec.ofNat 4 (ports.getD k 0)
  { b with pres := BitVec.ofNat 9 ((l.map fun ix => 2 ^ (8 - ix)).sum), port0 := port 0, port1 := port 1, port2 := port 2, port3 := port 3 }

/-- A bundle that holds one slot. -/
def slotAlone (ix : Nat) : Bundle → Bundle := slotsOnly [ix]
/-- No slot, of version 1. -/
def noSlot : Bundle := { decodeBundle 0 with ver := 1 }
/-- An S slot. -/
def slotS (op d a x imm sub : Nat) : Bundle := slotAlone 0 { noSlot with s := { noSlot.s with
  op := BitVec.ofNat 6 op, d := BitVec.ofNat 6 d, a := BitVec.ofNat 6 a, b := BitVec.ofNat 6 x, imm := BitVec.ofNat 32 imm, sub := BitVec.ofNat 4 sub } }
/-- A Capstan with A2 = 0x1000, A3 = 70, A4 = -1, loop registers 0, 1, 2, 3 and a return address. -/
def capRegs : Capstan := { a := Vector.ofFn fun n => if n.val = 2 then 0x1000 else if n.val = 3 then 70 else if n.val = 4 then -1 else 0
                           l := #v[0, 1, 2, 3], rstk := [slicePc 9], cpc := slicePc 3 }
/-- Its group; every tile is the Capstan's. -/
def capRegsGroup : Group := { capGroup with cap := some capRegs, owner := (List.range 64).map fun t => (t, .capstan) }

/-- One S slot for each clause of `ScalarSlot`. -/
def scalarBundles : List Bundle :=
  ((List.range 9).map fun op => slotS op 10 4 3 0 0) ++ ((List.range 3).map fun n => slotS 9 10 0 0 0xFFFF0000 n) ++
  ((List.range 8).map fun n => slotS 10 10 4 3 0 n) ++ ((List.range 7).map fun n => slotS 11 0 (if n = 0 then 0 else 3) 0 0xFFFFFFFE n) ++
  ((List.range 4).map fun n => slotS 12 n 0 0 0xFFFFFFFE 0) ++
  [slotS 12 2 0 0 7 1, slotS 13 0 0 0 5 0, slotS 14 0 0 0 0 0, slotS 15 0 0 0 0 0, slotS 16 10 0 0 0x16 0, slotS 16 10 0 0 0x30 0,
   slotS 16 10 0 0 0x32 0, slotS 16 10 0 0 0x52 0, slotS 17 0 2 0 0x50 0]

theorem witness_ScalarSlot : (∀ b ∈ scalarBundles, BundleReady (capState capRegsGroup) (cap capRegsGroup) b 0) ∧
    capRegs.rstk.length < 8 ∧ capRegs.l[2]? = some 2 :=
  ⟨fun b hb => bundle_ready _ _ _ _ rfl (List.all_eq_true.mp (by decide +kernel :
      (scalarBundles.all fun b => bundleReady (cap capRegsGroup) b 0) = true) b hb), by decide +kernel, rfl⟩

/-- V, M, L, W, K, C and Y slots. -/
def slotV (op sub fmt : Nat) : Bundle := slotAlone 1 { noSlot with v0 := { noSlot.v0 with
  op := BitVec.ofNat 6 op, sub := BitVec.ofNat 4 sub, fmt := BitVec.ofNat 4 fmt, width := 2, dtile := 41, dreg := 3, lb := 3
  atile := if op = 10 ∨ op = 12 then 0 else 40, areg := if op = 10 ∨ op = 12 then 0 else 1
  btile := if op = 5 ∨ op = 7 ∨ op = 10 ∨ op = 12 then 0 else 40, breg := if op = 5 ∨ op = 7 ∨ op = 10 ∨ op = 12 then 0 else 2, sa := if op = 10 then 3 else 0 } }
/-- M: MMA, MMAQ or MZERO. -/
def slotM (op : Nat) : Bundle :=
  let m := { noSlot.m with op := BitVec.ofNat 4 op, d := 4, z := 31, x := 7 }
  slotAlone 3 { noSlot with m := if op = 2 then m else { m with a := 8, b := 16, fmtA := 1, fmtB := 1 } }
/-- VCVT. -/
def slotCvt (dst src breg : Nat) : Bundle := slotAlone 1 { noSlot with v0 := { noSlot.v0 with
  op := 6, sub := BitVec.ofNat 4 src, fmt := BitVec.ofNat 4 dst, width := 2, dtile := 41, dreg := 3, lb := 3, atile := 40, breg := BitVec.ofNat 3 breg } }
/-- L: TLD, TLDS or SLD. -/
def slotL (op : Nat) : Bundle :=
  let l := { noSlot.l with op := BitVec.ofNat 4 op, dtile := 40, base := 2 }
  slotAlone 4 { noSlot with l := if op = 2 then l else if op = 1 then { l with base := 0, lb := 5 } else { l with layout := 1, lb := 5 } }
/-- W: TST, TSTS, TSTD or SST. -/
def slotW (op : Nat) : Bundle :=
  let w := { noSlot.w with op := BitVec.ofNat 4 op, stile := 40 }
  slotAlone 5 { noSlot with w := if op = 0 then { w with base := 2, layout := 1 } else if op = 2 then { w with off := 0x140 } else if op = 3 then { w with base := 2 } else w }
/-- K. -/
def slotK (op : Nat) : Bundle := slotAlone 6 { noSlot with k := { noSlot.k with op := BitVec.ofNat 4 op, dst := 7, base := 2, off := 64, lb := 4 } }
/-- PREFR. -/
def slotPref : Bundle := slotAlone 7 { noSlot with c := { noSlot.c with op := 2, src := 2, len := 3 } }

/-- A copy on path 1 of the bytes that A2 to A5 describe. -/
def slotC (op : Nat) : Bundle := slotAlone 7 { noSlot with c := { noSlot.c with op := BitVec.ofNat 4 op, path := 1, dst := 0, src := 2, len := 6, shape := 5 } }
/-- Y. -/
def slotY (op id tile a : Nat) : Bundle := slotAlone 8 { noSlot with y := { noSlot.y with
  op := BitVec.ofNat 5 op, id := BitVec.ofNat 10 id, tile := BitVec.ofNat 9 tile, a := BitVec.ofNat 6 a } }
/-- A group whose path 2 counts two, all tiles the Capstan's. -/
def slotsGroup : Group := { capRegsGroup with
  owner := (List.range 512).map fun t => (t, .capstan), paths := capRegsGroup.paths.set 2 [{ seq := 1 }, { seq := 2 }] }
/-- Its view. -/
def slotsView : CapView := cap slotsGroup
/-- One bundle for each clause of `BundleSlots`, with its slot. -/
def slotBundles : List (Bundle × Nat) :=
  ([(0, 0, 0), (1, 1, 0), (2, 2, 0), (0, 3, 0), (7, 0, 0), (8, 0, 0), (10, 0, 14), (10, 1, 14), (11, 0, 14), (11, 1, 14), (12, 0, 14)].map
    fun x => (slotV x.1 x.2.1 x.2.2, 1)) ++
  [(slotM 0, 3), (slotM 1, 3), (slotM 2, 3), (slotL 0, 4), (slotW 1, 5), (slotK 0, 6), (slotC 0, 7), (slotC 1, 7), (slotY 0 0 0 0, 8), (slotY 1 5 40 0, 8),
   (slotCvt 1 0 0, 1), (slotCvt 0 3 2, 1), (slotCvt 3 0 0, 1), (slotL 1, 4), (slotL 2, 4), (slotW 0, 5), (slotW 3, 5), (slotK 1, 6), (slotPref, 7),
   (slotY 4 5 0 0, 8), (slotY 5 2 0 3, 8), (slotY 5 2 0 0, 8), (slotY 6 0 0 0, 8), (slotY 8 0 0 0, 8), (slotY 3 5 0 0, 8), (slotY 7 0 0 0, 8)]

theorem witness_BundleSlots : (∀ x ∈ slotBundles, BundleReady (capState slotsGroup) slotsView x.1 x.2) ∧ slotsView.flying = [] ∧
    slotsView.g.badWords = [] ∧ (∀ x ∈ slotBundles, ∀ t ∈ (slotTiles x.1 x.2).1 ++ (slotTiles x.1 x.2).2, slotsView.g.ownerOf t = .capstan) ∧
    (∀ g ∈ [false, true], ({ g, path := 1, dst := 0, src := 0x1000, len := 0, shape := 0, flags := 0 } : CopyArgs).fault slotsView.g = none) ∧
    offerTo slotsView.g 0 5 = none ∧ slotsView.k.acc = [] ∧ slotsView.g.build = none ∧ (slotsView.k.readA 3).toNat = 70 ∧
    slotsView.g.pathCount 2 = 2 :=
  ⟨fun x hx => bundle_ready _ _ _ _ rfl (List.all_eq_true.mp (by decide +kernel :
      (slotBundles.all fun x => bundleReady slotsView x.1 x.2) = true) x hx), by decide +kernel⟩

/-- Tile 40 is on offer to the Capstan. -/
def offeredSlots : Group := offered slotsGroup (.offeredCapstan 98 0 2)

theorem witness_slot_take : BundleReady (capState offeredSlots) (cap offeredSlots) (slotY 2 0 40 0) 8 ∧
    offeredSlots.ownerOf 40 = .offeredCapstan 98 0 2 ∧ takeable ((cap offeredSlots).begun (slotY 2 0 40 0)).s ((cap offeredSlots).begun (slotY 2 0 40 0)).g 40 98 = true :=
  ⟨bundle_ready _ _ _ _ rfl (by decide +kernel), by decide +kernel⟩

/-- Accesses that all pass. -/
def isParts : AccessOut → Bool
  | .parts _ => true
  | _ => false
/-- They have parts. -/
theorem parts_of (o : AccessOut) (h : isParts o = true) : ∃ ps, o = .parts ps := by
  cases o <;> simp_all [isParts]

theorem witness_slot_accesses : (∃ ps, judgeGlobal (slotsView.begun (slotK 0)).s ctx (slotsView.begun (slotK 0)).g [] [] none
      [{ lane := 0, addr := (slotsView.begun (slotK 0)).k.addr 2 14 64, len := 64, align := 64, use := .load }] = .parts ps) ∧
    (∃ ps, judgeShared (slotsView.begun (slotW 1)).s ctx (slotsView.begun (slotW 1)).g ((List.range 16).map fun r => {
        lane := r, addr := ((slotsView.begun (slotW 1)).k.addr 0 18 0 % 2 ^ 32 + r * 64) % 2 ^ 64, len := 64, align := 64, use := .store,
        data := List.replicate 64 0 }) = .parts ps) ∧
    ∃ ps, judgeGlobal (slotsView.begun (slotL 0)).s ctx (slotsView.begun (slotL 0)).g [] [] none ((List.range 16).flatMap fun r =>
        let a := ((slotsView.begun (slotL 0)).k.addr 2 18 0 + r * 64) % 2 ^ 64
        { lane := r, addr := a, len := 64, align := 64, use := .load } :: rowTags ctx .load r a fun _ => 0) = .parts ps := by
  refine ⟨?_, ?_, ?_⟩
  all_goals exact parts_of _ (by decide +kernel)

theorem witness_slot_loads : (∃ ps, judgeShared (slotsView.begun (slotL 1)).s ctx (slotsView.begun (slotL 1)).g ((List.range 16).map fun r =>
        { lane := r, addr := (0 + r * 64) % 2 ^ 64, len := 64, align := 64, use := .load }) = .parts ps) ∧
    (∃ ps, judgeGlobal (slotsView.begun (slotL 2)).s ctx (slotsView.begun (slotL 2)).g [] [] none
      [{ lane := 0, addr := 0x1000, len := 64, align := 64, use := .load }] = .parts ps) := by
  refine ⟨?_, ?_⟩
  all_goals exact parts_of _ (by decide +kernel)

theorem witness_slot_stores : (∃ ps, judgeGlobal (slotsView.begun (slotW 0)).s ctx (slotsView.begun (slotW 0)).g [] [] none ((List.range 16).flatMap fun r =>
        { lane := r, addr := (0x1000 + r * 64) % 2 ^ 64, len := 64, align := 64, use := .store, data := List.replicate 64 0 } ::
          rowTags ctx .store r ((0x1000 + r * 64) % 2 ^ 64) fun _ => 0xFF) = .parts ps) ∧
    (∃ ps, judgeGlobal (slotsView.begun (slotW 3)).s ctx (slotsView.begun (slotW 3)).g [] [] none
      [{ lane := 0, addr := 0x1000, len := 64, align := 64, use := .store, data := List.replicate 64 0 }] = .parts ps) ∧
    (∃ ps, judgeGlobal (slotsView.begun (slotK 1)).s ctx (slotsView.begun (slotK 1)).g [] [] none
      [{ lane := 0, addr := 0x2000, len := 16, align := 16, use := .load }] = .parts ps) := by
  refine ⟨?_, ?_, ?_⟩
  all_goals exact parts_of _ (by decide +kernel)

/-- A state of the small group's core with a cleat. -/
def capCleat (k : Cleat) : CapView := { slotsView with s := putCore (capState slotsGroup) 0 ((getCore (capState slotsGroup) 0).putCleat 5 k) }
/-- A Capstan with a store in its queue. -/
def queuedGroup : Group := { slotsGroup with cap := some { capRegs with acc := [lateStore] } }

theorem witness_slot_cleats : (∀ k ∈ [({} : Cleat), { ownCleat with phase := true }, ownCleat], BundleReady (capCleat k).s (capCleat k) (slotY 4 5 0 0) 8 ∧
      (getCore (capCleat k).s 0).cleat 5 = k) ∧ ownCleat.owner = some slotsGroup.gid ∧ ownCleat.phase = false ∧ ({} : Cleat).owner ≠ some 1 ∧
    BundleReady (capState queuedGroup) (cap queuedGroup) (slotY 3 5 0 0) 8 ∧ (cap queuedGroup).k.acc ≠ [] ∧
    (gangMember (slotsView.begun (slotY 3 5 0 0)).s slotsGroup 0).any (fun g => g.state != .saved) = true := by
  refine ⟨fun k hk => ?_, rfl, rfl, nofun, bundle_ready _ _ _ _ rfl (by decide +kernel), nofun, by decide +kernel⟩
  simp only [List.mem_cons, List.not_mem_nil, or_false] at hk
  rcases hk with rfl | rfl | rfl <;> exact ⟨bundle_ready _ _ _ _ rfl (by decide +kernel), by decide +kernel⟩

/-- S and Y: an ADD whose sum WAITP waits for, or a BR with a MARK. -/
def sumWait (imm : Nat) : Bundle := slotsOnly [0, 8] { noSlot with
  s := { noSlot.s with d := 3, i := 1, imm := BitVec.ofNat 32 imm }, y := { noSlot.y with op := 5, id := 2, a := 3 } }
/-- The BR. -/
def brMark : Bundle := slotsOnly [0, 8] { noSlot with s := { noSlot.s with op := 11, imm := 0xFFFFFFFE }, y := { noSlot.y with op := 6 } }
/-- M and W: a store of the tile that the MMA writes. -/
def mmaStore (op : Nat) : Bundle := slotsOnly [3, 5] { noSlot with m := (slotM 0).m, w := { noSlot.w with op := BitVec.ofNat 4 op, stile := 4 } }
/-- Does a bundle hold these slots alone? -/
def holdsSlots (b : Bundle) (l : List Nat) : Bool := slotIxs.all fun n => present b n == l.contains n

theorem witness_several_slots : (∀ b ∈ [sumWait 1, sumWait 70, brMark, mmaStore 0, mmaStore 1], BundleMay slotsView.s slotsView b) ∧
    (∀ b ∈ [sumWait 1, sumWait 70, brMark], holdsSlots b [0, 8] = true) ∧ (∀ b ∈ [mmaStore 0, mmaStore 1], holdsSlots b [3, 5] = true ∧ isExt b 3 = false ∧
      b.w.stile.toNat ∈ (MSlot.tiles b.m).1 ∧ ∀ t ∈ (MSlot.tiles b.m).1 ++ (MSlot.tiles b.m).2, slotsView.g.ownerOf t = .capstan) ∧
    slotsView.g.pathCount 2 = 2 ∧ (slotsView.k.readA 0).toNat = 0 :=
  ⟨fun b hb => bundle_may _ _ _ rfl (List.all_eq_true.mp (by decide +kernel :
      ([sumWait 1, sumWait 70, brMark, mmaStore 0, mmaStore 1].all fun b => bundleMay slotsView b) = true) b hb), by decide +kernel⟩

/-- The states before each slot of a bundle that holds one Y slot, a NOP. -/
def nopStages (n : Nat) : State :=
  let v := slotsView.begun (slotY 0 0 0 0)
  if n ≤ 8 then v.s else match v.commitSlot (v.k.part.getD { b := slotY 0 0 0 0, cpc := 0, idx := 0, issued := 0, npc := none, seq := 0 }) 8 with
    | .ok t => slotDone t 1 8
    | _ => v.s
/-- A slot of an extension, alone or behind an S slot. -/
def extSlots (l : List Nat) (ix : Nat) (sop : Nat) : Bundle := slotsOnly l { noSlot with
  s := if ix = 0 then { noSlot.s with op := 48 } else if l.contains 0 then { noSlot.s with op := BitVec.ofNat 6 sop, d := if sop = 0 then 3 else 0, i := if sop = 0 then 1 else 0 } else noSlot.s
  v0 := if ix = 1 then { noSlot.v0 with op := 48 } else noSlot.v0, v1 := if ix = 2 then { noSlot.v1 with op := 48 } else noSlot.v1
  m := if ix = 3 then { noSlot.m with op := 12 } else noSlot.m, l := if ix = 4 then { noSlot.l with op := 12 } else noSlot.l
  w := if ix = 5 then { noSlot.w with op := 12 } else noSlot.w, k := if ix = 6 then { noSlot.k with op := 12 } else noSlot.k
  c := if ix = 7 then { noSlot.c with op := 12 } else noSlot.c, y := if ix = 8 then { noSlot.y with op := 24 } else noSlot.y }

theorem witness_stages : slotsView.stages (slotY 0 0 0 0) 9 nopStages := by
  refine ⟨rfl, fun ix hi => ⟨slotsView.begun (slotY 0 0 0 0), ((slotsView.begun (slotY 0 0 0 0)).k.part).getD { b := slotY 0 0 0 0, cpc := 0, idx := 0, issued := 0, npc := none, seq := 0 }, ?_⟩⟩
  interval_cases ix
  all_goals refine ⟨?_, rfl, rfl, by decide, ?_, ?_⟩
  all_goals first
    | rfl
    | exact fun h => absurd h (by decide +kernel)
    | exact fun _ => rfl
    | exact fun _ => ⟨_, rfl, rfl⟩
theorem witness_stage_stops : BundleMay slotsView.s slotsView (extSlots [0] 0 0) ∧ slotsView.stages (extSlots [0] 0 0) 0 (fun _ => (slotsView.begun (extSlots [0] 0 0)).s) ∧
    ∃ w p t, capViewOf (slotsView.begun (extSlots [0] 0 0)).s 1 = some w ∧ w.k.part = some p ∧ p.b = extSlots [0] 0 0 ∧ p.idx ≤ 0 ∧
      present (extSlots [0] 0 0) 0 = true ∧ w.commitSlot p 0 = .stop t :=
  ⟨bundle_may _ _ _ rfl (by decide +kernel), ⟨rfl, nofun⟩, _, _, _, rfl, rfl, rfl, by decide, by decide +kernel, rfl⟩

/-- A native result for tile 41, one fixed at cycle 9, and an entry for Z7; all their data is there. -/
def landing (seq : Nat) (fixed : Bool) (bound : Nat) : Exposed :=
  { seq, fixed, issued := 3, bound, minAt := 90, ready := true, tile := some 41, regs := 8, lanes := 1, v := [{ tile := 41, reg := 3, lane := 0, word := 0x3F800000, tag := 4 }] }
/-- A Capstan with results in flight, at virtual cycle `vcyc`. -/
def landGroup (l snaps : List Exposed) (vcyc : Nat) : Group := { capRegsGroup with cap := some { capRegs with res := l }, snaps, vcyc }
/-- An SLD's write of entry 2 in flight. -/
def sldGroup (data : Option (List Byte)) : Group := { capRegsGroup with cap := some { capRegs with sld := [{ seq := 4, entry := 2, data }] } }
/-- A frozen Capstan that waits for a tile. -/
def frozenGroup : Group := { capRegsGroup with cap := some { capRegs with pageWait := some (.tile 0x5000), part := some {
  b := slotK 0, cpc := slicePc 3, idx := 6, issued := 0, npc := none, seq := 4 } } }

/-- A context with a derived region of two tiles at 0x5000, whose records are at 0xB000: the first is DROPPED, its recipe entry 1 of
the kernel table at 0x7000, whose image word is at 0x4000. -/
def derivedCtx : Ctx := { ctx with regions := [{ base := 0x5000, ntiles := 2, die := 0, recbase := 0xB000 }], rkbase := 0x7000, rkcount := 2, rcpdepth := 2 }
/-- The state. -/
def derivedState : State := { state derivedCtx group with
  mem := [(0x20B000, 2 * 2 ^ 16 + 1), (0x207080, 0x4000), (0x207088, 2 ^ 32 + 32 * 2 ^ 40), (0x2070B8, 2 ^ 32 + 1)].foldl
    (fun m e => writeNat m e.1 8 e.2) (placedTables []) }

/-- The same in the context with a derived region. -/
def tstdView : CapView := { slotsView with s := { capState slotsGroup with ctxs := [derivedCtx] }, c := derivedCtx }
theorem witness_slot_tstd : BundleReady tstdView.s tstdView (slotW 2) 5 ∧ (∀ t ∈ [40, 41, 42, 43], tstdView.g.ownerOf t = .capstan) ∧
    (tstdView.begun (slotW 2)).k.addr 0 18 0x140 = 0x5000 ∧
    tstdFault derivedCtx (tstdView.begun (slotW 2)).g 0x5000 0 = none ∧ tstdView.k.storing 0 64 = false ∧ sharedBad tstdView.g 0 64 = false ∧
    descFault (tstdView.begun (slotW 2)).s derivedCtx 0x5000 (readBytes tstdView.g.shared 0 64) = none :=
  ⟨bundle_ready _ _ _ _ rfl (by decide +kernel), by decide +kernel⟩

theorem witness_CapstanLandings : (∀ x ∈ [landing 5 false 9, landing 5 true 9], x.dead = [] ∧ x ∈ (landGroup [x] [] 9).cap.elim [] (·.res) ∧
      (∀ y ∈ (cap (landGroup [x] [] 9)).flying, y.seq = x.seq → y = x) ∧ (∀ y ∈ (cap (landGroup [x] [] 9)).flying, y ≠ x → x.shares y = false) ∧ x.shares { landing 6 false 9 with tile := some 42 } = false ∧
      (cap (landGroup [x] [] 9)).heldBack = false ∧
      x.minAt ≤ (capState group).clock ∧ x.bound ≤ (landGroup [x] [] 9).vcyc ∧ (landGroup [x] [] 8).vcyc < x.bound) ∧
    capRegs.part = none ∧ capRegs.taken = none ∧ capRegs.traps = [] ∧ landing 5 true 9 ∈ (landGroup [] [landing 5 true 9] 9).snaps ∧
    (landing 5 true 9).op = none ∧ Memory.wf capRegs.slice = true ∧
    ((sldGroup (some (List.replicate 64 1))).cap.bind fun k => k.sld.find? fun w => w.entry == 2) = some { seq := 4, entry := 2, data := some (List.replicate 64 1) } ∧
    tileUnready (capState frozenGroup) ctx 0x5000 = none ∧ { cap frozenGroup with k := { (cap frozenGroup).k with pageWait := none } }.awake = true ∧
    tileUnready derivedState derivedCtx 0x5000 ≠ none := by
  decide +kernel

/-- An operation of the engine whose element counts 2. -/
def engineOp (started : Bool) (left : Nat) : EngineOp :=
  { seq := 7, bpc := slicePc 3, started, left, occ := 8, dtiles := [41], rtiles := [8], v := [{ tile := 41, reg := 3, lane := 0, word := 0x3F800000, tag := 2 }]
    check := true, weight := 1 }
/-- Its group. -/
def engineGroup (started : Bool) (left mth : Nat) : Group :=
  { capRegsGroup with cap := some { capRegs with eng := [engineOp started left], mth, mse := true } }

theorem witness_MatrixEngine : (∀ g ∈ [engineGroup false 8 0, engineGroup true 0 0, engineGroup true 0 5], ∃ v e, capViewOf (capState g) 1 = some v ∧
      v.k.eng = [e] ∧ v.k.mse = true ∧ v.g.build = none ∧ e.check = true) ∧
    (countGet .f32 2 0 0x3F800000).1 = 2 ∧ (engineOp true 0).left = 0 ∧ (engineOp false 8).started = false := by
  refine ⟨fun g hg => ?_, by decide +kernel⟩
  simp only [List.mem_cons, List.not_mem_nil, or_false] at hg
  rcases hg with rfl | rfl | rfl <;> exact ⟨_, _, rfl, rfl, rfl, rfl, rfl⟩

/-- The same while the engine completes what a trap stopped. -/
def drainState (g : Group) : State := putCore (capState g) 0 { getCore (capState g) 0 with drain := [(5, 2)] }

theorem witness_engine_drains : (getCore (drainState (engineGroup false 8 0)) 0).drain ≠ [] ∧
    ∃ v, capViewOf (drainState (engineGroup false 8 0)) 1 = some v ∧ v.k.eng = [engineOp false 8] ∧ v.g.core = 0 :=
  ⟨by decide +kernel, _, rfl, rfl, rfl⟩

/-- A result that lands at clock 90 or 120, checked or not. -/
def flight (landAt : Nat) (chk : Option SigCheck) : Flight :=
  { seq := 5, issuedAt := 80, landAt, v := [{ tile := 1, reg := 2, lane := 3, word := 0x3F800000, tag := 4 }], s := [(9, 6)], qsat := 2, chk }
/-- The check of an F32 result in lane 3. -/
def sigCheckOf : SigCheck := { fmt := .f32, regs := [(1, 2)], lanes := 8, elems := 1, pc := 0x100, iw0 := 0, iw1 := 0 }
/-- A group whose strand has it in flight. -/
def flightGroup (th : Word) (f : Flight) : Group := with_ { strand with sigth := th, flights := [f, { flight 130 none with seq := 6 }] }

theorem witness_StrandLandings : (∀ f ∈ [flight 90 none, flight 120 none, flight 90 (some sigCheckOf)],
      f ∈ (view ctx (flightGroup 0 f)).st.flights ∧ ∀ x ∈ (view ctx (flightGroup 0 f)).st.flights, x ≠ f → s0.clock < x.landAt) ∧
    (flight 90 none).landAt ≤ s0.clock ∧ s0.clock < (flight 120 none).landAt ∧
    (countGet .f32 4 0 0x3F800000) = (4, true) ∧ (4 : Nat) < (view ctx (flightGroup 5 (flight 90 none))).st.sigth.toNat ∧
    sigCheckOf.lanes.getLsbD 3 = true ∧ (view ctx (flightGroup 5 (flight 90 none))).st.trap = none := by decide +kernel

/-- A trap of a strand and one of a Capstan. -/
def trapRec : TrapRec := { cause := 1, pc := 0x100, rpc := 0x108 }
/-- One of a bundle that stopped at its slot K, or one of an operation that completed. -/
def capTrap (compl : Bool) : CTrap := { cause := if compl then 0x0C else 6, compl, sresume := 6, bpc := slicePc 3, crpc := slicePc 3, npc := slicePc 4 }
/-- A group whose strand has a trap. -/
def trapGroup : Group := with_ { strand with trap := some trapRec }
/-- A group whose Capstan has one. -/
def capTrapGroup (k : Capstan) : Group := { capRegsGroup with cap := some k }
theorem witness_trap_block : ∀ x ∈ [(0x900, 64), (0x1000, 0xAF0), (0x100, 64)], blockWritable (trapState 0x4000 0 ctx group) ctx x.1 x.2 = true := by
  intro x hx
  simp only [List.mem_cons, List.not_mem_nil, or_false] at hx
  rcases hx with rfl | rfl | rfl <;> exact (block_free (trapState 0x4000 0 ctx group) _ _ (by decide) (by decide +kernel)).2

theorem witness_TrapEntries : (viewIn (trapState 0x4000 0 ctx trapGroup) ctx trapGroup).takesTraps ∧ (view ctx (flightGroup 0 (flight 120 none))).st.quiet = false ∧
    (∀ t ∈ [capTrap false, capTrap true, { capTrap true with due := 101 }], capViewOf (trapState 0x4000 0 ctx (capTrapGroup { capRegs with traps := [t] })) 1 =
      some { s := trapState 0x4000 0 ctx (capTrapGroup { capRegs with traps := [t] }), c := ctx, g := capTrapGroup { capRegs with traps := [t] },
             k := { capRegs with traps := [t] } }) ∧ s0.clock < ({ capTrap true with due := 101 } : CTrap).due ∧ (capTrap true).due ≤ s0.clock ∧ sysNat (trapState 0x4000 0 ctx group) ctx ctx.trapvec 8 ≠ 0 ∧
    sysReads (trapState 0x4000 0 ctx group) ctx ctx.trapvec 12 = true ∧ blockWritable (state { ctx with trapvec := 0x40000000 } group) { ctx with trapvec := 0x40000000 } 0x900 64 = false ∧
    (capTrapGroup { capRegs with taken := some (capTrap false) }).cap.elim true (·.delivered) = false ∧
    (view ctx (capTrapGroup {})).st.quiet = true ∧ (with_ { strand with pdone := true }).strands.all (·.pdone) = true ∧
    (capTrap true).placed { capRegs with traps := [capTrap true] } =
      { capTrap true with crpc := capRegs.cpc, sresume := 0, npc := nextBundle capRegs.cpc } :=
  ⟨⟨rfl, by decide +kernel, by decide +kernel, by decide +kernel, by decide +kernel, rfl⟩, by decide +kernel, fun b hb => rfl, by decide +kernel⟩

/-- A group whose Capstan has taken a trap that waits for its strand, in a wait. -/
def deliverGroup (w : Option Wait) : Group :=
  { capRegsGroup with cap := some { capRegs with taken := some (capTrap false) }, strands := [{ strand with wait := w }] }
/-- Its state, with the trap block. -/
def deliverState (w : Option Wait) : State := trapState 0x4000 0 ctx (deliverGroup w)

theorem witness_deliveries : (∀ w ∈ [none, some { kind := .clwait true 2 5 false, since := 3, len := 16 }, some { kind := .launch 2 0x1000 7, since := 3, len := 16 }],
      (∃ v u, capViewOf (deliverState w) 1 = some v ∧ v.g.state = .resident ∧ v.k.taken = some (capTrap false) ∧ v.k.delivered = false ∧
        viewOf (deliverState w) 1 0 0 0 = some u ∧ u.st.pdone = false ∧ u.st.handler = none ∧ u.st.trap = none ∧ u.st.quiet = true ∧ u.st.wait = w)) ∧
    sysReads (deliverState none) ctx ctx.trapvec 12 = true ∧ sysNat (deliverState none) ctx ctx.trapvec 8 ≠ 0 ∧
    blockWritable (deliverState none) ctx 0x100 64 = true := by
  refine ⟨fun w hw => ⟨_, _, rfl, rfl, rfl, rfl, rfl, rfl, rfl, rfl, rfl, rfl⟩, by decide +kernel, by decide +kernel,
    (block_free _ _ _ (by decide) (by decide +kernel)).2⟩

/-- A strand with a trap that waits behind a late one, and one behind a trap of its own. -/
theorem witness_late_traps : ∀ late ∈ [true, false],
    ∃ v, viewOf (state ctx (with_ { strand with sigth := 5, trap := some { trapRec with late }, flights := [flight 90 (some sigCheckOf)] })) 1 0 0 0 = some v ∧
      v.st.trap = some { trapRec with late } ∧ v.g.build = none ∧ flight 90 (some sigCheckOf) ∈ v.st.flights :=
  fun late _ => ⟨_, rfl, rfl, rfl, by simp⟩

/-! ### Memories and consistency -/

/-- One part, at the head of the strand's list: in HBM4E at 0x203010, or at 0x10 of the group's shared memory. -/
def homePart (len : Nat) (data cmp : List Byte) : Part := { lane := 2, addr := 0x3010, pa := 0x203010, place := .home 0 64, len, data, cmp }
/-- In shared memory. -/
def sharedPart (len : Nat) (data : List Byte) : Part := { lane := 2, addr := 0x10, pa := 0x10, place := .shared 1, len, data }
/-- The entry. -/
def sentEntry (kind : AccKind) (isLd isSt : Bool) (p : Part) : Entry := { seq := 3, kind, isLd, isSt, parts := [p], sent := true }
/-- A group whose strand has it. -/
def sentGroup (e : Entry) : Group := { with_ { strand with acc := [e, lateStore] } with shared := [(0x10, 5), (0x11, 6)] }
/-- A line of the L2 over 0x203000. -/
def l2At (pa : Nat) : L2Line :=
  let h := homeOf pa
  { die := h.1, slice := h.2.1, set := h.2.2, way := 0, pa, ctx := some 1, va := 0x3000, tile := none, old := none }
/-- A state with that line. -/
def sentState (e : Entry) : State := { state ctx (sentGroup e) with l2 := [l2At 0x203000], mem := writeNat (placedTables []) 0x203010 8 0x0102030405060708 }

theorem witness_MemoryAccesses :
    (∀ e ∈ [sentEntry .store false true (homePart 4 [1, 2, 3, 4] []), sentEntry .store false true (sharedPart 4 [1, 2, 3, 4]),
        sentEntry (.load .b32 false false false 10) true false (homePart 4 [] []), sentEntry (.load .b8 true true false 10) true false (sharedPart 1 []),
        sentEntry (.atom .add .i32 .rlx .dev (some 10)) true true (homePart 4 [1, 0, 0, 0] []),
        sentEntry (.cas .rlx .dev 10 false) true true (homePart 4 [1, 0, 0, 0] [8, 7, 6, 5])],
      getGroup (sentState e) 1 = some (sentGroup e) ∧ accOf (sentGroup e) (.strand 1 0) = e :: [lateStore] ∧ e.frames = [] ∧
      (∀ q ∈ e.parts, q.done = false ∧ q.err = 0 ∧ isPoisoned (sentState e) q.pa = false) ∧ (l2Line (sentState e) 0x203010).isSome = true ∧
      Memory.wf (sentState e).mem = true ∧ Memory.wf (sentGroup e).shared = true ∧ sharedBad (sentGroup e) 0x10 4 = false ∧
      l1Line (getCore (sentState e) 0) 0x203010 = none) ∧ getCtx s0 1 = some ctx ∧
    leNat [1, 0, 0, 0] = leNat [1, 0, 0, (0 : Byte)] % 2 ^ 32 ∧ readBytes (sentState lateStore).mem 0x203010 4 = [8, 7, 6, 5] := by
  decide +kernel

/-- An atomic of every shape that the statement names. -/
def atomOf (op : AOp) (f : Fmt) (p : Part) : Entry := sentEntry (.atom op f .rlx .dev (some 10)) true true p
/-- The last part of a tagged 64-bit load of lane 2, its data and first tag read. -/
def taggedLoad : Entry :=
  { seq := 3, kind := .load .b64 false false true 10, isLd := true, isSt := false, sent := true, path := some 0
    parts := [{ homePart 8 [] [] with done := true, got := List.replicate 8 1 }, { homePart 1 [] [] with isTag := true, done := true, got := [4] },
              { homePart 1 [] [] with isTag := true, word := 1 }] }
/-- A load of a derived tile. -/
def tileLoad : Entry :=
  sentEntry (.load .b32 false false false 10) true false { lane := 2, addr := 0x5010, pa := 0x10, place := .derived 0 0, len := 4 }
/-- The line that holds 0x203010, in the L1. -/
def l1At : L1Line := { set := 0, way := 0, pa := 0x203000, bytes := List.replicate 128 9 }
/-- A state whose derived tile at 0x5000 is PRESENT, with the first entry of the strand's list. -/
def presentState (e : Entry) : State := { state derivedCtx (sentGroup e) with
  mem := writeNat (placedTables []) 0x20B000 4 0x10000, dtiles := [{ ctx := 1, va := 0x5000, bytes := [(0x10, 7)] }] }

theorem witness_access_forms :
    (∀ e ∈ [taggedLoad, atomOf .add .f32 (homePart 4 [0, 0, 128, 63] []), atomOf .min .i32 (homePart 4 [1, 0, 0, 0] []), atomOf .exch .f32 (homePart 4 [1, 0, 0, 0] []),
        atomOf .max .f32 (sharedPart 4 [0, 0, 128, 63]), atomOf .inc .ui32 (sharedPart 4 [1, 0, 0, 0])], getGroup (sentState e) 1 = some (sentGroup e) ∧
        accOf (sentGroup e) (.strand 1 0) = e :: [lateStore] ∧ e.sent = true ∧ e.frames = [] ∧
        (∀ q ∈ e.parts, q.err = 0 ∧ isPoisoned (sentState e) q.pa = false ∧ sharedBad (sentGroup e) q.pa q.len = false) ∧
        (l2Line (sentState e) 0x203010).isSome = true ∧ (sentGroup e).state = .resident) ∧
    (taggedLoad.parts.length = 2 + 1 ∧ (∀ q ∈ taggedLoad.parts.take 2, q.done = true)) ∧
    (let e := { sentEntry (.cas .rlx .dev 10 false) true true (sharedPart 4 [9, 0, 0, 0]) with parts := [{ sharedPart 4 [9, 0, 0, 0] with cmp := [5, 6, 0, 0] }] }
     getGroup (sentState e) 1 = some (sentGroup e) ∧ readBytes (sentGroup e).shared 0x10 4 = [5, 6, 0, 0]) ∧
    (let s := putCore (sentState taggedLoad) 0 { getCore (sentState taggedLoad) 0 with l1 := [l1At] }
     l1Line (getCore s 0) 0x203010 = some l1At ∧ getGroup s 1 = some (sentGroup taggedLoad)) ∧
    getGroup (presentState tileLoad) 1 = some (sentGroup tileLoad) ∧ getCtx (presentState tileLoad) 1 = some derivedCtx ∧
    tileUnready (presentState tileLoad) derivedCtx 0x5010 = none ∧ recordLost (presentState tileLoad) derivedCtx 0x5010 = none ∧
    tileGone (presentState tileLoad) derivedCtx 0x5010 = false := by
  decide +kernel

/-- An entry of one operation on ranges or tiles, sent. -/
def rangeEntry (kind : AccKind) (isLd isSt : Bool) (parts : List Part) : Entry := { seq := 3, kind, isLd, isSt, parts, sent := true, path := some 6 }
/-- PREFR's part. -/
def prefPart : Part := { addr := 0x3000, pa := 0, place := .host, len := 0 }
/-- A TSTD to the tile at 0x5000. -/
def tstdEntry : Entry := rangeEntry (.tstd 0x5000 (leBytes 64 0x10001) [3, 4]) false true [{ addr := 0x5000, pa := 0, len := 5120, place := .derived 0 0 }]
/-- The DROPPED tile's state with an entry. -/
def droppedState (e : Entry) : State := { derivedState with groups := [sentGroup e] }

theorem witness_range_entries :
    (∀ e ∈ [rangeEntry (.cmo .clean .mem 0x3000 128) false true [], rangeEntry (.cmo .inval .mem 0x3000 128) false true [], rangeEntry (.cmo .cleaninval .l2 0x3000 128) false true [],
        rangeEntry (.prefr 0x3000 128 []) true false [prefPart]],
      getGroup (sentState e) 1 = some (sentGroup e) ∧ accOf (sentGroup e) (.strand 1 0) = e :: [lateStore] ∧ e.frames = []) ∧
    rangeTiles ctx 0x3000 128 = [] ∧ rangeLines (sentState lateStore) ctx 0x3000 128 = [(0x3000, 0x203000)] ∧ (l2Line (sentState lateStore) 0x203000).isSome = true ∧
    rangeLines (state ctx (sentGroup lateStore)) ctx 0x3000 128 = [(0x3000, 0x203000)] ∧ l2Line (state ctx (sentGroup lateStore)) 0x203000 = none ∧
    (∀ l ∈ (state ctx (sentGroup lateStore)).l2, (l.die, l.slice, l.set) ≠ homeOf 0x203000) ∧
    rangeTiles derivedCtx 0x5000 128 = [0x5000] ∧ regionAt derivedCtx 0x5000 = some ({ base := 0x5000, ntiles := 2, die := 0, recbase := 0xB000 }, 0) ∧
    rangeLines (presentState lateStore) derivedCtx 0x5000 128 = [] ∧ recState (presentState lateStore) derivedCtx { base := 0x5000, ntiles := 2, die := 0, recbase := 0xB000 } 0 = rsPresent ∧
    rangeLines (droppedState lateStore) derivedCtx 0x5000 128 = [] ∧ recState (droppedState lateStore) derivedCtx { base := 0x5000, ntiles := 2, die := 0, recbase := 0xB000 } 0 = rsDropped ∧
    derivedState.builds = [] ∧ 1 ≤ derivedCtx.rcpdepth ∧ (sentGroup lateStore).build = none := by
  decide +kernel

theorem witness_tstd : getGroup (presentState tstdEntry) 1 = some (sentGroup tstdEntry) ∧ accOf (sentGroup tstdEntry) (.strand 1 0) = tstdEntry :: [lateStore] ∧
    recordLost (presentState tstdEntry) derivedCtx 0x5000 = none ∧ builtAway (presentState tstdEntry) (sentGroup tstdEntry) derivedCtx 0x5000 = false ∧
    tileAwaited (presentState tstdEntry) 1 0x5000 = false ∧
    (placeTile (fillRecord (presentState tstdEntry) derivedCtx 0xB000) derivedCtx { base := 0x5000, ntiles := 2, die := 0, recbase := 0xB000 } 0 0x5000).isSome = true ∧
    (let s := { presentState tstdEntry with mem := writeNat (placedTables []) 0x20B000 4 0x30000 }
     recState s derivedCtx { base := 0x5000, ntiles := 2, die := 0, recbase := 0xB000 } 0 = rsBuilding → builtAway s (sentGroup tstdEntry) derivedCtx 0x5000 = true) ∧
    (let g := { sentGroup tstdEntry with gid := 2, strands := [{ strand with wait := some { kind := .tile 0x5000, since := 3, len := 8 } }] }
     tileAwaited { presentState tstdEntry with groups := [sentGroup tstdEntry, g] } 1 0x5000 = true) := by
  decide +kernel

/-- A walk of page 0 and one of a page that is absent. -/
def walkState (page : Nat) : State := putCore s0 0 { getCore s0 0 with walks := [{ ctx := 1, page, waiters := [.strand 1 0] }] }
/-- A dirty line. -/
def dirty : L2Line := { l2At 0x203000 with old := some (List.replicate 128 7) }

theorem witness_CachesAndErrors : (getCore (walkState 0) 0).walks[0]? = some { ctx := 1, page := 0, waiters := [.strand 1 0] } ∧
    walk (walkState 0) ctx 0 = .leaf 0x200000 true true true true false 0 ∧
    walk (walkState (2 ^ 26)) ctx (2 ^ 26 * 65536) = .absent 0 false ∧ (viewOf (walkState (2 ^ 26)) 1 0 0 0).isSome = true ∧
    (2 ^ 47 ≤ 2 ^ 47 + 5 ∧ 2 ^ 47 + 5 < 2 ^ 48) ∧ 0 < Config.ways ∧
    (∀ l ∈ [l2At 0x203000], l.tile = none → l.pa ≠ 0x204000) ∧ [dirty][0]? = some dirty ∧ dirty.tile = none ∧ dirty.pa % 128 = 0 ∧
    group.badShared = [] ∧ group.badWords = [] ∧ group.badSlice = [] := by
  decide +kernel

/-- A build of the derived tile at 0x5000, started by no recompute group or by another's. -/
def buildAt (key va depth : Nat) (gid : Option Nat) : Build := { key, ctx := 1, va, chain := 3, depth, by_ := none, admitted := gid.isSome, gid }
/-- A state with it. -/
def buildState (l : List Build) : State := { derivedState with builds := l }

/-- A strand of which one lane prefetches the DROPPED tile. -/
def dropPrefState : State :=
  { derivedState with groups := [{ prefGroup with sregs := [(20, 0x5000)], regs := [] }] }

theorem witness_pref_rebuilds : curView dropPrefState = some (viewIn dropPrefState derivedCtx { prefGroup with sregs := [(20, 0x5000)], regs := [] }) ∧
    (viewIn dropPrefState derivedCtx { prefGroup with sregs := [(20, 0x5000)], regs := [] }).memAddr true (.s 10) (.v 3) 0 0 = 0x5000 ∧
    (∃ pa die slice, checkSys dropPrefState derivedCtx .load 0x5000 1 = .ok pa (.derived die slice)) ∧
    tileUnready dropPrefState derivedCtx 0x5000 = some 0x5000 :=
  ⟨rfl, by decide +kernel, ⟨_, _, _, rfl⟩, by decide +kernel⟩

theorem witness_record_readable : ∃ pa pl, sysCheck derivedState derivedCtx .load 0xB000 = .ok pa pl ∧ isPoisoned derivedState pa = false ∧
    recordAddr { base := 0x5000, ntiles := 2, die := 0, recbase := 0xB000 } 0 = 0xB000 := ⟨0x20B000, .home 0 32, by decide +kernel⟩

theorem witness_entry_usable : ∃ ws, kernelEntry (buildState [buildAt 7 0x5000 1 none]) derivedCtx 1 = .usable ws :=
  ⟨recordWords (readBytes derivedState.mem 0x207080 128), by decide +kernel⟩

theorem witness_Splices : getCtx derivedState 1 = some derivedCtx ∧
    regionAt derivedCtx 0x5000 = some ({ base := 0x5000, ntiles := 2, die := 0, recbase := 0xB000 }, 0) ∧
    regionAt derivedCtx 0x6000 = some ({ base := 0x5000, ntiles := 2, die := 0, recbase := 0xB000 }, 1) ∧
    recState derivedState derivedCtx { base := 0x5000, ntiles := 2, die := 0, recbase := 0xB000 } 0 = rsDropped ∧
    recState derivedState derivedCtx { base := 0x5000, ntiles := 2, die := 0, recbase := 0xB000 } 1 ≠ rsDropped ∧
    buildByKey (buildState [buildAt 7 0x6000 1 none]) 7 = some (buildAt 7 0x6000 1 none) ∧ 1 + 1 ≤ derivedCtx.rcpdepth ∧
    derivedCtx.rcpdepth < 2 + 1 ∧ buildOf (buildState [buildAt 7 0x5000 1 none]) 1 0x5000 = some (buildAt 7 0x5000 1 none) ∧
    setsFit (buildState [buildAt 7 0x5000 1 none]) 0 0 [(1, 0x5000)] = true ∧
    kernelEntry derivedState derivedCtx 2 = .unusable ∧ (buildAt 7 0x5000 1 (some 5)).admitted = true ∧ getGroup derivedState 5 = none := by decide +kernel

/-! ### The distributor -/

/-- Tenant 0 with a queue of 16 entries at 0x1000, at HEAD, TAIL. -/
def distState (head tail : Nat) (en : Bool) : State :=
  let s := queueState group
  putTenant s 0 { getTenant s 0 with en := true, q := (getTenant s 0).q.set 0 {
    base := 0x1000, log2 := 4, head := BitVec.ofNat 32 head, tail := BitVec.ofNat 32 tail, en } }

theorem witness_QueueRecords : (distState 0 2 true).boot = 2 ∧ (getQueue (distState 0 2 true) 0 0).log2 = 4 ∧
    (16 - (0 : Word)).toNat ≤ 2 ^ 4 ∧ 2 ^ 4 < (17 - (0 : Word)).toNat ∧ (getQueue (distState 0 2 true) 0 0).en = true ∧
    (getQueue (distState 0 2 false) 0 0).en = false ∧ (getTenant (distState 0 2 true) 0).en = true ∧
    (getQueue (distState 0 2 true) 0 0).stopped = false ∧ queueCtx (distState 0 2 true) 0 = some ctx ∧
    readSys (distState 0 2 true) ctx .load 0x1000 128 = .bytes (readBytes queueMem 0x201000 128) ∧
    recordFault (recordWords (readBytes queueMem 0x201000 128)) = none ∧
    readSys (distState 1 2 true) ctx .load 0x1080 128 = .bytes (readBytes queueMem 0x201080 128) ∧
    recordFault (recordWords (readBytes queueMem 0x201080 128)) = some 1 := by decide +kernel

/-- The words of the record at 0x1000, with a counter at 0x2000 as its dependence or its completion. -/
def gridWords (dep done : Nat) : List DWord :=
  let l := recordWords (readBytes queueMem 0x201000 128)
  ((l.set 10 (BitVec.ofNat 64 dep)).set 11 6).set 14 (BitVec.ofNat 64 done)
/-- A grid of tenant 0's queue 0. -/
def gridOf (st : GridState) (dep done : Nat) : Grid := { id := 5, ctx := 1, origin := .host 0 0, words := gridWords dep done, state := st }
/-- A state with it and a group that has ended. -/
def gridState (x : Grid) (g : Group) : State := { queueState g with grids := [x] }
/-- Ended, of grid 5. -/
def endedGroup : Group := { with_ { strand with pdone := true } with grid := 5 }

theorem witness_GridLife : (∀ x ∈ [gridOf .queued 0 0, gridOf .queued 0x2000 0, gridOf .fetch 0 0, gridOf .placing 0 0, gridOf .ending 0 0, gridOf .ending 0 0x2000],
      getGrid (gridState x endedGroup) 5 = some x ∧ getCtx (gridState x endedGroup) x.ctx = some ctx ∧ recIrq x.words = false ∧
      recGroups x.words = 1 ∧ recGang x.words = 1) ∧ atHead (gridState (gridOf .queued 0 0) endedGroup) (gridOf .queued 0 0) = true ∧
    readCounter (gridState (gridOf .queued 0 0) endedGroup) ctx 0 6 = .met true ∧ readCounter (gridState (gridOf .queued 0 0) endedGroup) ctx 0x2000 6 = .met false ∧
    (match fetchCopies (gridState (gridOf .fetch 0 0) endedGroup) ctx (gridOf .fetch 0 0) with
      | .ok _ => true
      | .error _ => false) = true ∧
    workList (gridState (gridOf .placing 0 0) endedGroup) = [.grid (gridOf .placing 0 0)] ∧
    findCores (gridState (gridOf .placing 0 0) group) (Work.want (gridState (gridOf .placing 0 0) group) (.grid (gridOf .placing 0 0))) = some [1] ∧
    endedGroup.finished = true ∧ group.finished = false ∧ endedGroup.build = none ∧
    checkSys (gridState (gridOf .ending 0 0x2000) group) ctx .atomic 0x2000 8 = .ok 0x202000 (.home 0 32) ∧
    isPoisoned (gridState (gridOf .ending 0 0x2000) group) 0x202000 = false ∧ Memory.wf queueMem = true := by decide +kernel

/-! ### Scheduling, the host, the step -/

/-- A context whose slice of 1,024 clocks began at clock 0; groups that are to stop, wait, are saved or halted. -/
def slicedCtx (n : Nat) : Ctx := { derivedCtx with tslice := BitVec.ofNat 32 n, joinspin := 50, pregrace := 0, tenant := 0 }
/-- A group that is asked to stop since clock 3. -/
def stopping (f : Future) : Group := { group with stopReq := some { future := f, since := 3 } }
/-- A context with room for so many saved groups. -/
def roomState (n : Nat) (c : Ctx) (g : Group) : State :=
  { queueState g with clock := 5000, ctxs := [c], mem := writeNat (writeNat queueMem 0x20B000 4 0x20001) 0x208030 4 n }
/-- A group whose strand waits for a derived tile. -/
def tileGroup : Group := waiting (.tile 0x5000)
/-- A group in a masked handler that is asked to stop. -/
def maskedGroup : Group := { handling with stopReq := some { future := .none, since := 3 } }
/-- Halted, and saved. -/
def haltedGroup : Group := { group with state := .halted }
/-- Saved. -/
def savedGroup : Group := { group with state := .saved, ready := some 50, grid := 5 }
/-- Its state, with its grid. -/
def savedState : State := { queueState savedGroup with grids := [gridOf .placed 0 0] }

theorem witness_conversions : tileGroup.strands = [{ strand with wait := some { kind := .tile 0x5000, since := 3, len := 16 } }] ∧ tileGroup.cap = none ∧
    tileGroup.convTry = none ∧ strand.acc = [] ∧ strand.chainFault = none ∧ tileUnready (roomState 2 (slicedCtx 1) tileGroup) (slicedCtx 1) 0x5000 ≠ none ∧
    3 + (slicedCtx 1).joinspin.toNat ≤ 5000 ∧ saveRoom (roomState 2 (slicedCtx 1) { tileGroup with convTry := some (900, true) }) (slicedCtx 1) = 2 ∧
    900 + 4096 ≤ (5000 : Nat) ∧ saveRoom (roomState 0 (slicedCtx 1) { tileGroup with convTry := some (4000, false) }) (slicedCtx 1) = 0 ∧
    getGroup (roomState 2 (slicedCtx 1) { tileGroup with convTry := some (900, true) }) 1 = some { tileGroup with convTry := some (900, true) } := by decide +kernel

theorem witness_GroupScheduling : getCtx (roomState 2 (slicedCtx 1) group) 1 = some (slicedCtx 1) ∧ (slicedCtx 1).tslice.toNat % 2 ^ 24 = 1 ∧
    (slicedCtx 1).sliceStart = some 0 ∧ 0 + 1024 * 1 ≤ (5000 : Nat) ∧ (slicedCtx 0).tslice.toNat % 2 ^ 24 = 0 ∧
    (∀ g ∈ [group, stopping .none, tileGroup, waiting (.join 2 0x2000 6), maskedGroup], (roomState 2 (slicedCtx 1) g).groups.filter (fun x => sameGang x g) = [g] ∧
      getGroup (roomState 2 (slicedCtx 1) g) 1 = some g ∧ g.state = .resident ∧ g.pendingL = [] ∧ g.convTry = none) ∧
    groupStopped (roomState 2 (slicedCtx 1) (stopping .none)) (stopping .none) = true ∧
    groupStopped (roomState 2 (slicedCtx 1) maskedGroup) maskedGroup = false ∧ mustPreempt (roomState 2 (slicedCtx 1) group) group = false ∧
    readSys (roomState 2 (slicedCtx 1) (waiting (.join 2 0x2000 6))) (slicedCtx 1) .load 0x2000 8 = .bytes (leBytes 8 5) ∧
    3 + (slicedCtx 1).joinspin.toNat ≤ 5000 ∧
    convertingWait (roomState 2 (slicedCtx 1) tileGroup) (slicedCtx 1) tileGroup = some (.tile 0x5000, false) ∧
    convertingWait (roomState 2 (slicedCtx 1) group) (slicedCtx 1) group = none ∧
    3 + Config.clocksPerMicrosecond * (slicedCtx 1).pregrace.toNat < 5000 ∧ (handling.strands.headD {}).pdone = false ∧
    groupStopped (roomState 2 (slicedCtx 1) group) { group with stopReq := some { future := .none, since := 5000, halt := true } } = true ∧
    saveRoom (roomState 2 (slicedCtx 1) group) (slicedCtx 1) = 2 ∧ saveRoom (roomState 0 (slicedCtx 1) group) (slicedCtx 1) = 0 ∧
    getGroup (queueState haltedGroup) 1 = some haltedGroup ∧ haltedGroup.state = .halted ∧
    getGroup savedState 1 = some savedGroup ∧ workList savedState = [.gang savedGroup] ∧ gangSlots savedState savedGroup = [some savedGroup] ∧
    (findCores savedState (Work.want savedState (.gang savedGroup))).isSome = true := by decide +kernel

theorem witness_region_waits : regionWaits (roomState 2 (slicedCtx 1) (stopping .none)) (stopping .none) = false := by decide +kernel

/-- Tenant 0 with an open pager request, a command and a report that run, and a window of 2 MiB at 0 on die 0. -/
def hostState : State :=
  let s := { s0 with boot := 2 }
  putTenant s 0 { getTenant s 0 with pgopen := [{ number := 3, ctx := 1, agent := none, va := 0x5000 }], cmdbusy := some 1, attwait := true,
                                         diewin := (getTenant s 0).diewin.set 0 (0, 1) }

theorem witness_HostInterface : hostState.boot = 2 ∧ ((getTenant hostState 0).pgopen.find? fun p => p.number == 3).isSome = true ∧
    (∀ p ∈ (getTenant hostState 0).pgopen, p.number ≠ (4 : Word).toNat) ∧ ctxOf hostState 0 0 = some ctx ∧ ctxOf hostState 0 9 = none ∧
    (getTenant hostState 1).cmdbusy = none ∧ (getTenant hostState 0).cmdbusy = some 1 ∧ tenantResident hostState 0 = true ∧
    tenantResident hostState 1 = false ∧ (getTenant hostState 0).attwait = true ∧ (getTenant hostState 1).attwait = false ∧
    inDiewin hostState 0 0x200000 8 = false ∧ inDiewin hostState 0 0x1FFFF8 8 = true ∧ usesOld hostState (getTenant hostState 0) 1 = false ∧
    hostState.variant ≠ .y2s ∧ (getTenant hostState 0).en = false ∧ (getTenant hostState 0).pglog2 = 0 ∧ (0x40000 : DWord).toNat % 4096 = 0 := by decide +kernel

theorem witness_PowerAndReset : (List.replicate 4 ({ version := 1, bytes := [], signature := [] } : Image)).length = 4 ∧ ({ pwlim := 5, weights := [3, 3] } : Core).frozen = false ∧
    5 < (({ pwlim := 5, weights := [3, 3] } : Core).weights.take 64).sum := by decide +kernel

theorem witness_power_begun : coreIssued s0 0 = false ∧ coreIssued (state ctx (with_ { strand with issuedAt := some 100 })) 0 = true ∧ (getCore s0 0).weight = 0 := by decide +kernel

/-- The strand's instructions' needs, with a word of V9 marked, an FP64 one on a device without the feature. -/
def issueNeed : Need := needV .va .i32 [(0, 8)] [(1, 9)] (.imm8 5) []
/-- A state of the other variant. -/
def y2s : State := { s0 with variant := .y2s }

theorem witness_IssueChecks : v0.canIssue {} issueNeed = true ∧ (Instr.iadd {} .i32 8 9 (.imm8 5) false false false).wf = true ∧ curView s0 = some v0 ∧
    v0.st.mapped 8 = true ∧ v0.st.mapped 9 = true ∧ ({ strand with q := Vector.replicate 32 0 } : Strand).mapped 8 = false ∧
    (v0.st.acting {}).getLsbD 5 = true ∧ (Instr.fadd {} .f64 .rn {} 8 10 (.v 12)).wf = true ∧
    (view ctx (with_ { strand with flights := [{ flight 120 none with v := [{ tile := 1, reg := 1, lane := 0, word := 0, tag := 0 }] }] })).canIssue {} issueNeed = false ∧
    (view ctx (with_ { strand with flights := [{ flight 120 none with p := [2] }] })).canIssue { p := 2 } issueNeed = false ∧
    v0.g.badWords = [] ∧ aget (getCore s0 0).busy (v0.st.slot / 8 * 4) = none ∧
    (viewIn y2s ctx group).canIssue {} { needV .va .f64 (vNames .f64 0 8) (vNames .f64 1 10) (.v 12) [] with f64 := true, occ := 2 } = true :=
  ⟨by decide +kernel, by decide +kernel, rfl, by decide +kernel⟩

/-- A Capstan whose return stack holds n addresses. -/
def stackGroup (n : Nat) : Group := { capRegsGroup with cap := some { capRegs with rstk := List.replicate n (slicePc 9) } }
/-- A group whose Capstan owns no tile. -/
def poorGroup : Group := { capRegsGroup with owner := [] }
/-- CALLS and RETS. -/
def stackSlot (op : Nat) : Bundle := slotS op 0 0 0 5 0
/-- Bundles that stop: each with its group and the slots it holds. -/
def stopBundles : List (Bundle × Group × List Nat) :=
  ((List.range 9).map fun ix => (extSlots [ix] ix 0, slotsGroup, [ix])) ++
  ((List.range 8).flatMap fun k => [0, 11].map fun op => (extSlots [0, k + 1] (k + 1) op, slotsGroup, [0, k + 1])) ++
  [(slotS 13 0 0 0 5 0, stackGroup 8, [0]), (slotS 14 0 0 0 0 0, stackGroup 0, [0]), (slotV 0 0 0, poorGroup, [1]),
   (slotsOnly [2] { noSlot with v1 := (slotV 0 0 0).v0 }, poorGroup, [2]), (slotL 0, poorGroup, [4]), (slotL 1, poorGroup, [4]), (slotW 0, poorGroup, [5]),
   (slotW 1, poorGroup, [5]), (slotC 0, { capRegsGroup with cap := some { capRegs with a := capRegs.a.set 6 8192 } }, [7]),
   (slotAlone 6 { noSlot with k := { noSlot.k with dst := 7, base := 3, lb := 4 } }, capRegsGroup, [6])]

/-- The Capstan of such a state acts. -/
theorem curCap_of (g : Group) (hi : g.gid = 1) (hc : g.ctx = 1) (hs : g.state = .resident) (hk : g.cap.isSome = true) : curCap (capState g) = some (cap g) := by
  obtain ⟨k, e⟩ := Option.isSome_iff_exists.mp hk
  have hg : getGroup (capState g) 1 = some g := by simp [getGroup, capState, state, hi]
  have hx : getCtx (capState g) 1 = some ctx := rfl
  have hv : capViewOf (capState g) 1 = some (cap g) := by simp [capViewOf, hg, hc, hx, e, cap]
  show (capViewOf (capState g) 1).bind _ = _
  simp [hv, cap, hs]

theorem witness_bundle_stops : ∀ x ∈ stopBundles, BundleMay (capState x.2.1) (cap x.2.1) x.1 ∧ holdsSlots x.1 x.2.2 = true ∧ x.2.1.build = none :=
  fun x hx => by
    have := List.all_eq_true.mp (by decide +kernel : (stopBundles.all fun x => bundleMay (cap x.2.1) x.1 && holdsSlots x.1 x.2.2 && x.2.1.build.isNone && x.2.1.gid == 1 && x.2.1.ctx == 1 && x.2.1.state == .resident && x.2.1.cap.isSome) = true) x hx
    simp only [Bool.and_eq_true, Option.isNone_iff_eq_none, beq_iff_eq] at this
    exact ⟨bundle_may _ _ _ (curCap_of _ this.1.1.1.2 this.1.1.2 this.1.2 this.2) this.1.1.1.1.1.1, this.1.1.1.1.1.2, this.1.1.1.1.2⟩

theorem witness_stop_causes : 8 ≤ (cap (stackGroup 8)).k.rstk.length ∧ (cap (stackGroup 0)).k.rstk = [] ∧ (∀ t, poorGroup.ownerOf t ≠ .capstan) ∧
    (let v := cap { capRegsGroup with cap := some { capRegs with a := capRegs.a.set 6 8192 } }
     ({ g := false, path := 1, dst := 0, src := 0x1000, len := (v.k.readA 6).toNat % 2 ^ 32, shape := v.k.readA 5, flags := 0 } : CopyArgs).fault v.g = some 13) ∧
    (∃ lanes extra addr, judgeGlobal ((cap capRegsGroup).begun (slotK 0)).s ctx ((cap capRegsGroup).begun (slotK 0)).g [] [] none
      [{ lane := 0, addr := 70, len := 64, align := 64, use := .load }] = .trap 6 lanes extra addr) := by
  refine ⟨by decide +kernel, rfl, fun t => by simp [poorGroup, Group.ownerOf, aget], by decide +kernel, ⟨_, _, _, rfl⟩⟩
/-- Bundles that are illegal: HZ is not 0, a port names no slot, an S operation with no meaning, an absent slot with bits, one tile
register written twice. -/
def illegalBundles : List Bundle :=
  [{ noSlot with hz := 1 }, { noSlot with port0 := 4 }, slotsOnly [0] { noSlot with s := { noSlot.s with op := 20 } }, { noSlot with k := { noSlot.k with dst := 7 } },
   slotsOnly [1, 2] { noSlot with v0 := (slotV 12 0 14).v0, v1 := (slotV 12 0 14).v0 }]
/-- A recompute group's Capstan. -/
def capBuildGroup : Group := { capRegsGroup with build := some 7 }

theorem witness_illegal_bundles : CapFree (capState capRegsGroup) (cap capRegsGroup) ∧ CapFree (capState capBuildGroup) (cap capBuildGroup) ∧ capBuildGroup.build = some 7 ∧
    ({ noSlot with hz := 1 } : Bundle).hz ≠ 0 ∧ ({ noSlot with port0 := 4 } : Bundle).port0 = 4 ∧
    (let b := illegalBundles.getD 2 noSlot
     present b 0 = true ∧ isExt b 0 = false ∧ opLimit 0 ≤ slotOp b 0 ∧ ([b.port0, b.port1, b.port2, b.port3].filter fun p => p.toNat == 1).length = aReads b 0) ∧
    (let b := illegalBundles.getD 3 noSlot
     present b 6 = false ∧ slotBits b 6 ≠ 0) ∧
    (let b := illegalBundles.getD 4 noSlot
     present b 1 = true ∧ present b 2 = true ∧ ∃ x ∈ slotWrites b 1, ∃ y ∈ slotWrites b 2, x.1 = y.1 ∧ x.2 &&& y.2 ≠ 0) ∧
    (noSlot.ver = 1 ∧ noSlot.hz = 0 ∧ (∀ p ∈ [noSlot.port0, noSlot.port1, noSlot.port2, noSlot.port3], p = 0) ∧
     (∀ ix, ix < 9 → present noSlot ix = false ∧ slotBits noSlot ix = 0) ∧ (cap capRegsGroup).room noSlot 0 = true) :=
  ⟨⟨rfl, by decide +kernel⟩, ⟨rfl, by decide +kernel⟩, by decide +kernel⟩

/-- A strand at 0 whose word is an IADD, one whose word is none, and a Capstan at entry 3; each heads the agenda. -/
def stepState (w : Nat) : State := { s0 with mem := writeNat (placedTables []) 0x200000 8 w, agenda := [.strand 1 0], cur := none }

theorem witness_StepRunsDecoded :
    (∀ w ∈ [0x01730A022C005000, 0x30D70A0203000000], (viewOf (stepState w) 1 0 0 0).any (fun v => v.st.wait.isNone && v.awake) = true ∧
      fetchWords (stepState w) ctx 0 = .words (BitVec.ofNat 64 w) 0) ∧
    (match decodeWords 0x01730A022C005000 0, decodeWords 0x30D70A0203000000 0 with
      | .ok _, .error _ => true
      | _, _ => false) = true ∧
    (capViewOf { capState capRegsGroup with cur := none } 1).any (fun v => v.awake && v.k.part.isNone && !v.k.poisonedSnap && slc v.k.cpc && v.k.sld.isEmpty &&
      v.g.badSlice.isEmpty) = true := by decide +kernel

theorem witness_StrandRoundTrip : (Instr.iadd {} .i32 10 2 (.imm32 100000) false false false).wf = true ∧
    encode (.iadd {} .i32 10 2 (.imm32 100000) false false false) = some (0x01770A0200008008, 0x186A0) := by decide +kernel

theorem witness_StepKeepsMemory : Memory.wf (stepState 0x80E7000000000000).mem = true ∧
    (match step (stepState 0x80E7000000000000) with
      | .next _ => true
      | _ => false) = true := by decide +kernel

/-! ### Words of the spec's encodings -/

/-- Does each word decode to its instruction? A pair is a long form: its first and second word. -/
def decodes (l : List (Nat × Nat × Instr)) : Bool := l.all fun e => decodeTableWord e.1 e.2.1 == some e.2.2

/-- Integer arithmetic (R140, R144). -/
def words_integer : List (Nat × Nat × Instr) := [
  (64, 0x00E7000000000000, .nop {}),
  (64, 0x01730A022C005000, .iadd { p := 3 } .i32 10 2 (.s 300) false false false),
  (128, 0x00000000000186A001770A0200008008, .iadd {} .i32 10 2 (.imm32 100000) false false false),
  (64, 0x0177020101008000, .iadd {} .i32 2 1 (.imm8 1) false false false),
  (64, 0x01AAFFFE800080D0, .iadd { p := 2, neg := true } .i8 255 254 (.imm8 0x80) true true true),
  (64, 0x02B708090A000010, .isub {} .ui8 8 9 (.v 10) true),
  (64, 0x039708090A000000, .imul {} .i16 8 9 (.v 10) false),
  (64, 0x04870809BC006000, .imulh {} .ui32 8 9 (.s 700)),
  (64, 0x057708090A0B0010, .imad {} .i32 8 9 (.v 10) 11 true),
  (64, 0x06A708090A000000, .imin {} .i8 8 9 (.v 10)),
  (64, 0x078708090A000000, .imax {} .ui32 8 9 (.v 10)),
  (64, 0x1577010604004200, .isetp {} .i32 .lt 1 6 (.s 4) {}),
  (64, 0x158703090A350500, .isetp {} .ui32 .ge 3 9 (.v 10) { op := .or, neg := true, p := 5 }),
  (64, 0x167708FE14004040, .iadd64 {} 8 254 (.s 20) true),
  (64, 0x177708040C000B00, .lea {} true 8 4 (.v 12) 3),
  (64, 0x18A708090A0B0110, .idp4 {} .i8 true true 8 9 (.v 10) 11)]

theorem test_words_integer : decodes words_integer = true := by decide +kernel

/-- Bit instructions (R142). -/
def words_bits : List (Nat × Nat × Instr) := [
  (64, 0x08E700000F008000, .band {} 0 0 (.imm8 15)),
  (64, 0x09E708090A000000, .bor {} 8 9 (.v 10)),
  (64, 0x0AE708090A004000, .bxor {} 8 9 (.s 10)),
  (64, 0x0BE7030405060220, .blut {} 3 4 (.v 5) 6 0x22),
  (64, 0x0CE7040607008000, .shl {} 4 6 (.imm8 7)),
  (64, 0x0DE70A0907000000, .shr {} 10 9 (.v 7)),
  (64, 0x0EE708090A000000, .sar {} 8 9 (.v 10)),
  (64, 0x0FE708090A0B0100, .shd {} true false 8 9 (.v 10) 11),
  (64, 0x0FE708090A0B0200, .shd {} false true 8 9 (.v 10) 11),
  (64, 0x10E7080900000000, .popc {} 8 9),
  (64, 0x11E7080900000000, .clz {} 8 9),
  (64, 0x12E7080900000000, .brev {} 8 9),
  (64, 0x138708090A000000, .bfe {} .ui32 8 9 (.v 10)),
  (64, 0x14E708090A0B0000, .bfi {} 8 9 (.v 10) 11)]

theorem test_words_bits : decodes words_bits = true := by decide +kernel

/-- Moves, predicates, uniform registers (R146 to R155). -/
def words_moves : List (Nat × Nat × Instr) := [
  (64, 0x20E9180000008000, .mov { p := 1, neg := true } .b32 24 (.imm8 0)),
  (64, 0x21D7080A0C0D0000, .sel {} .f64 8 10 (.v 12) 5 true),
  (64, 0x22E7090201058200, .shfl {} .down 9 2 (.imm8 1) 5),
  (64, 0x22E7081801040000, .shfl {} .idx 8 24 (.v 1) 4),
  (64, 0x23E7020B00000200, .vote {} .uni 2 3 true),
  (64, 0x24E7080300000000, .ballot {} 8 3 false),
  (64, 0x25E7060100000000, .rdspec {} 6 .strandix),
  (64, 0x26E7BC0000020100, .emrd {} true 700),
  (64, 0x27E70000FF008000, .emwr {} (.imm8 0xFF)),
  (64, 0x28E7080000000000, .prmov {} (.pack 8)),
  (64, 0x28E7000905004100, .prmov {} (.unpack 9 (.s 5))),
  (64, 0x28E7020B00000200, .prmov {} (.copy 2 3 true)),
  (64, 0x2977BC58030A8000, .ualu {} .i32 .add false 700 600 (.imm8 3)),
  (64, 0x29E7382C08004800, .ualu {} .b32 .shl false 56 44 (.s 8)),
  (128, 0x000000000001000029771F1E00008008, .ualu {} .i32 .add false 31 30 (.imm32 0x10000)),
  (64, 0x29770AF1010C8000, .ualu {} .i32 .add false 10 1009 (.imm8 1)),
  (64, 0x2AE7140000004000, .umov {} 20 none (.s 0)),
  (64, 0x2AE7140905008100, .umov {} 20 (some 9) (.imm8 5))]

theorem test_words_moves : decodes words_moves = true := by decide +kernel

/-- Floating-point arithmetic (R166, R168, R171, R169, R170). -/
def words_floats : List (Nat × Nat × Instr) := [
  (64, 0x30D70A0204000000, .fadd {} .f64 .rn {} 10 2 (.v 4)),
  (64, 0x3007010001008000, .fadd {} .f32 .rn {} 1 0 (.imm8 1)),
  (64, 0x311708090A0001F0, .fmul {} .f16 .rz { na := true, nb := true, abs := true, sat := true } 8 9 (.v 10)),
  (64, 0x32070C042C065000, .ffma {} .f32 .rn {} 12 4 (.s 300) 6),
  (64, 0x332708090A000020, .fmin {} .bf16 { abs := true } 8 9 (.v 10)),
  (64, 0x3407181800008000, .fmax {} .f32 {} 24 24 (.imm8 0)),
  (64, 0x3ED7080A0C000300, .fdiv {} .f64 .rd {} 8 10 (.v 12)),
  (64, 0x351703090A4D0740, .fsetp {} .f16 .nan { nb := true } 3 9 (.v 10) { op := .and, p := 5 } true),
  (64, 0x36D7080A00000290, .frcp {} .f64 .ru { na := true, sat := true } 8 10),
  (64, 0x3707080900000000, .fsqrt {} .f32 .rn {} 8 9),
  (64, 0x3817080900000000, .frsq {} .f16 .rn {} 8 9),
  (64, 0x3907080900000100, .fexp2 {} .f32 .rz {} 8 9),
  (64, 0x3A27080900000000, .flog2 {} .bf16 .rn {} 8 9),
  (64, 0x3B07080900000000, .fsin {} .f32 .rn {} 8 9),
  (64, 0x3C07080900000080, .fcos {} .f32 .rn { na := true } 8 9),
  (64, 0x3D07080900000000, .ftanh {} .f32 .rn {} 8 9),
  (64, 0x3F37080900000000, .fclass {} .m8 8 9),
  (64, 0x401708090A0B0210, .fdot2 {} .f16 .ru { sat := true } 8 9 (.v 10) 11)]

theorem test_words_floats : decodes words_floats = true := by decide +kernel

/-- Conversions, rotation and counts (R173, R176, R179, R181, R182). -/
def words_conversions : List (Nat × Nat × Instr) := [
  (64, 0x4147140300100010, .cvt {} .fp4 .f32 .rn { sat := true } 20 3 2),
  (64, 0x41070809001C0C00, .cvt {} .f32 .i4 .rs {} 8 9 3),
  (64, 0x4111180900080000, .cvt { p := 1 } .f16 .f32 .rn {} 24 9 1),
  (64, 0x423714030A004010, .qnt {} .m8 .rn true 20 3 (.s 10) 0),
  (64, 0x434708090A390000, .dqnt {} .fp4 .rz 8 9 (.v 10) 7),
  (64, 0x440708000A0B0100, .angrot {} .sin 8 0 (.v 10) 11),
  (64, 0x4407080C0A0B0200, .angrot {} .rot 8 12 (.v 10) 11),
  (64, 0x4517080900000100, .nanpl {} .f16 8 9 true),
  (64, 0x503701090C008400, .sigq {} .m8 4 1 9 (.imm8 12) {}),
  (64, 0x5147080900000700, .sigget {} .fp4 8 9 7),
  (64, 0x5207080005008000, .sigset {} .f32 8 (.imm8 5) 0),
  (64, 0x53D7BC0A00020000, .sigmin {} .f64 700 10)]

theorem test_words_conversions : decodes words_conversions = true := by decide +kernel

/-- Memory instructions (R275, R281 to R290). -/
def words_memory : List (Nat × Nat × Instr) := [
  (64, 0x60E70A0202100A00, .ld {} .b32 false false 10 (.s 2) (.v 2) 0x10),
  (64, 0x60E708FEFC8081C0, .ld {} .b16 true true 8 (.v 254) (.imm8 0xFC) 0x80),
  (64, 0x61E7050108008A00, .st {} .b32 5 (.s 1) (.imm8 8) 0),
  (64, 0x62E708090A010080, .lds {} .b8 true 8 (.v 9) (.v 10) 1),
  (64, 0x63E7046410008C00, .sts {} .b128 4 (.s 100) (.imm8 16) 0),
  (64, 0x64E708020A000B40, .ldt {} .b64 true 8 (.s 2) (.v 10) 0),
  (64, 0x65E7020103000A00, .stt {} .b32 2 (.s 1) (.v 3) 0),
  (64, 0x66770504010608E0, .atom {} .add .i32 .acqrel .dev 5 (.s 4) (.v 1) 6),
  (64, 0x66E7030300018EA0, .atom {} .exch .b32 .rel .dev 3 (.s 3) (.imm8 0) 1),
  (64, 0x67E708040A0C0B10, .cas {} true .rlx .gang 8 (.s 4) (.v 10) 12),
  (64, 0x688708090A0C0740, .atoms {} .inc .ui32 .acq 8 (.v 9) (.v 10) 12),
  (64, 0x69E708090A0D0200, .cass {} false .rlx 8 (.v 9) (.v 10) 13),
  (64, 0x6A72000000058820, .red { p := 2 } .add .i32 .rlx .dev (.s 0) (.imm8 0) 5),
  (64, 0x6BE700040A000900, .pref {} true (.s 4) (.v 10)),
  (128, 0x00000000090000006CE7000600008808, .prefr {} 6 (.imm32 0x09000000)),
  (64, 0x6DE700060A004A20, .cmo {} .cleaninval .mem 6 (.s 10)),
  (64, 0x6EE7080A02040C00, .ldh {} .b128 8 10 (.v 2) 4)]

theorem test_words_memory : decodes words_memory = true := by decide +kernel

/-- Barriers, cleats, ownership and regions (R232, R418, R424, R426, R427). -/
def words_order : List (Nat × Nat × Instr) := [
  (64, 0x80E7000000000000, .mark {}),
  (64, 0x81E7000000000020, .fence {} .dev),
  (64, 0x82E7000000008000, .barSync {} 0 (.imm8 0)),
  (64, 0x82E7000000008100, .barArrive {} 0 (.imm8 0)),
  (64, 0x83E7010340008000, .clarm {} 1 3 (.imm8 64)),
  (64, 0x83E7010300008100, .clarmFree {} 1 3),
  (64, 0x84E7000301068010, .clarv {} true 3 6 (.imm8 1)),
  (64, 0x85E7020300008000, .clwait {} false 2 3 (.imm8 0)),
  (64, 0x86E7000000008300, .waitp {} .w0 (.imm8 0)),
  (64, 0x86E7000000008600, .waitp {} .rcp (.imm8 0)),
  (64, 0x87E7000500000000, .give {} 5),
  (64, 0x88E7000500000000, .take {} 5),
  (64, 0x89E708000A000100, .tqry {} true 8 (.v 10)),
  (64, 0x8AE7000000000000, .rgnbeg false),
  (64, 0x8BE7000000000000, .rgnend false),
  (64, 0x8CE7000000000000, .tick {})]

theorem test_words_order : decodes words_order = true := by decide +kernel

/-- Launches, copies and collectives (R358, R341, R343, R365, R369, R370). -/
def words_queues : List (Nat × Nat × Instr) := [
  (64, 0xA0E7000800000100, .copy {} 1 8),
  (64, 0xA1E7007F00000300, .copyg {} 3 127),
  (64, 0xA2E7020A00000000, .launch {} 2 10),
  (64, 0xA3E7010A08008000, .join {} 1 10 (.imm8 8)),
  (64, 0xA3E7030104004000, .join {} 3 1 (.s 4)),
  (64, 0xA407640A1E004000, .coll {} .f32 .allreduce 100 10 30),
  (64, 0xA4E7000A00017500, .coll {} .b32 .barrier 256 10 768),
  (64, 0xA5E7040507004000, .tkstat {} 4 5 (.s 7)),
  (64, 0xA5E7040507004100, .tkstatWait {} 4 5 (.s 7)),
  (64, 0xA6E702050C004000, .tkreform {} 2 5 12)]

theorem test_words_queues : decodes words_queues = true := by decide +kernel

/-- KV tables, belays, recipes and schedules (R380, R388, R389, R407, R410, R413). -/
def words_tables : List (Nat × Nat × Instr) := [
  (64, 0xB0E7080A02000800, .htrans {} 8 10 (.v 2)),
  (64, 0xB1E7280A00000000, .kvapp {} 40 10),
  (64, 0xB2E7160A02004000, .kvfork {} 22 10 2),
  (64, 0xB3E7000B00000000, .kvrel {} 11),
  (64, 0xB4E72C0A03008000, .kvsetMap {} 44 10 (.imm8 3)),
  (64, 0xB4E72C0A21004100, .kvsetNew {} 44 10 (.s 33)),
  (64, 0xB4E7000A03008200, .kvsetAbsent {} 10 (.imm8 3)),
  (64, 0xB5E72C0A00000000, .kvmove {} 44 10),
  (128, 0x0000000000001000B6E7010A00008008, .belayAdd {} 1 10 (.imm32 0x1000)),
  (64, 0xB6E7010A04004100, .belayDrop {} 1 10 (.s 4)),
  (128, 0x0000000000002000B7E7010A00008008, .retireRcp {} 1 10 (.imm32 0x2000)),
  (64, 0xB7E7010A04004100, .retireBly {} 1 10 (.s 4)),
  (64, 0xB8E7060400000000, .rcpqState {} 6 4),
  (64, 0xB8E7060400000100, .rcpqStep {} 6 4),
  (64, 0xB9E7031402008000, .sched {} 3 20 (.imm8 2))]

theorem test_words_tables : decodes words_tables = true := by decide +kernel

/-- Counters, branches, traps and CSRs (R239 to R246, R429 to R431). -/
def words_control : List (Nat × Nat × Instr) := [
  (64, 0xC007000405000000, .sacc {} .add 4 (.v 5)),
  (64, 0xC107005805024000, .topk {} 600 (.s 5)),
  (64, 0xC2E7280800000000, .cntrd {} 40 8),
  (64, 0xC3E7000800000000, .cntclr {} 8),
  (64, 0xD0E7FFFFFFFC0000, .bra {} 0xFFFFFFFC),
  (64, 0xD0E1FFFFFFF90000, .bra { p := 1 } 0xFFFFFFF9),
  (64, 0xD1E70000BC006000, .brx {} 700),
  (64, 0xD2E70A00000F0000, .call {} 10 15),
  (64, 0xD3E7000A00000000, .ret {} 10),
  (64, 0xD4E7000000000000, .exit {}),
  (64, 0xD5E7BC0B00020000, .empush {} 700 3 true),
  (64, 0xD6E7140000000000, .emflip {} 20),
  (64, 0xD7E7140000030000, .empop {} 788),
  (64, 0xD8E7000000040000, .brez {} 4),
  (64, 0xE0E3000001008000, .trap { p := 3 } (.imm8 1)),
  (64, 0xE2E7000002008000, .bkpt {} (.imm8 2)),
  (64, 0xE1E7000000000000, .tret {}),
  (64, 0xE1E7000000000100, .tretSkip {}),
  (64, 0xE1E7001400000200, .tretEmu {} 20),
  (64, 0xE3E7083200000000, .csrr {} 8 0x32),
  (64, 0xE4E700200C008000, .csrw {} 0x20 (.imm8 12)),
  (64, 0xE4E7004000004000, .csrw {} 0x40 (.s 0)),
  (64, 0xF3E70A0200000000, .extensionOpcode 0xF3E70A0200000000 0)]

theorem test_words_control : decodes words_control = true := by decide +kernel

/-- Words that none is, each for a reason of R56 or R79: an odd F64 register, FSIN.f64, extension FMT 15, BK 3, SW without BK 1, bits 1:0,
a second word of a long form above 32 bits, a long form without BK 2, SHFL's segment 64, an unused OP, CSRW of a read-only CSR. -/
theorem test_refused_words : ([(64, 0x30D70A0203000000), (64, 0x3BD70A0200000000), (64, 0xF3F70A0200000000), (64, 0x01770A022C00C000), (64, 0x01770A022C001000),
    (64, 0x01770A0200000001), (128, 0x000000010000000001770A0200008008), (128, 0x000186A001770A0200000008), (64, 0x22E7090201068200), (64, 0x19E7000000000000),
    (64, 0xE4E700300C008000)].all fun e => (decodeTableWord e.1 e.2).isNone) = true := by decide +kernel

/-- A bundle from its header and slots, at the places of R60. -/
def bundleWord (header s v0 m l w k c y : Nat) : Nat :=
  header * 2 ^ 464 + s * 2 ^ 400 + v0 * 2 ^ 336 + m * 2 ^ 208 + l * 2 ^ 160 + w * 2 ^ 112 + k * 2 ^ 80 + c * 2 ^ 32 + y
/-- A bundle all of whose bits are zero but for those given. -/
def zeroBundle : Bundle :=
  let v : VSlot := { op := 0, width := 0, fmt := 0, lb := 0, dtile := 0, dreg := 0, atile := 0, areg := 0, btile := 0, breg := 0, sa := 0, sub := 0, lg := 0 }
  { ver := 1, pres := 0, port0 := 0, port1 := 0, port2 := 0, port3 := 0, hz := 0, v0 := v, v1 := v
    s := { op := 0, d := 0, a := 0, b := 0, imm := 0, sub := 0, i := 0, z := 0 }
    m := { op := 0, fmtA := 0, fmtB := 0, bsA := 0, bsB := 0, d := 0, a := 0, b := 0, c := 0, z := 0, x := 0, acc := 0, sub := 0 }
    l := { op := 0, lb := 0, dtile := 0, base := 0, off := 0, layout := 0, sub := 0 }, w := { op := 0, stile := 0, base := 0, off := 0, layout := 0, rd := 0, z := 0 }
    k := { op := 0, lb := 0, dst := 0, base := 0, off := 0 }, c := { op := 0, path := 0, dst := 0, src := 0, len := 0, shape := 0, flags := 0 }
    y := { op := 0, tile := 0, id := 0, a := 0, scope := 0 } }

/-- ADD with an immediate beside VADD; the M slot MMA.m8; TSTD; ZLD; CPY.p1 with cleat 3; the bundle of slice index 3 of the hand-off program. -/
theorem test_words_bundles : decodes [
    (512, bundleWord 0x1C0080000000 0x0030C00000004008 0x0206C80C80C90000 0 0 0 0 0 0, .bundleIssue { zeroBundle with
      pres := 0x180, port0 := 1, s := { zeroBundle.s with d := 3, a := 3, imm := 64, i := 1 },
      v0 := { zeroBundle.v0 with width := 2, lb := 3, dtile := 200, atile := 200, btile := 201 } }),
    (512, bundleWord 0x110000000000 0 0 0x0330300104860FF8 0 0 0 0 0, .bundleIssue { zeroBundle with
      pres := 0x020, m := { zeroBundle.m with fmtA := 3, fmtB := 3, d := 96, a := 4, b := 36, c := 96, z := 31, x := 7, acc := 1 } }),
    (512, bundleWord 0x104330000000 0 0 0 0 0x220140000016 0 0 0, .bundleIssue { zeroBundle with
      pres := 0x008, port0 := 6, port1 := 6, w := { zeroBundle.w with op := 2, stile := 64, base := 10, rd := 11 } }),
    (512, bundleWord 0x102380000000 0 0 0 0 0 0x0A41C001 0 0, .bundleIssue { zeroBundle with
      pres := 0x004, port0 := 7, k := { zeroBundle.k with lb := 5, dst := 4, base := 7, off := 1 } }),
    (512, bundleWord 0x101444400000 0 0 0 0 0 0 0x0220A30E001C 0, .bundleIssue { zeroBundle with
      pres := 0x002, port0 := 8, port1 := 8, port2 := 8, port3 := 8
      c := { zeroBundle.c with path := 1, dst := 4, src := 5, len := 6, shape := 7, flags := 0x1C } }),
    (512, bundleWord 0x110800000000 0 0 0x0110010000200FF0 0 0 0 0 0x08080300, .bundleIssue { zeroBundle with
      pres := 0x021, m := { zeroBundle.m with fmtA := 1, fmtB := 1, d := 2, b := 1, z := 31, x := 7 },
      y := { zeroBundle.y with op := 1, tile := 2, id := 3 } }),
    (512, bundleWord 0x108280000000 0 0 0 0x040004000000 0 0 0 0, .bundleIssue { zeroBundle with
      pres := 0x010, port0 := 5, l := { zeroBundle.l with lb := 2, base := 1 } })] = true := by decide +kernel

/-! ### Ill-formed terms -/

/-- One term for each check of `Instr.wf` that it fails. -/
def illFormed : List Instr :=
  [.iadd {} .ui32 8 9 (.v 10) true false false, .isub {} .i4 8 9 (.v 10) false, .imul {} .i8 8 9 (.v 10) false, .bfe {} .b32 8 9 (.v 10),
   .isetp {} .i32 .num 1 9 (.v 10) {}, .isetp {} .i32 .lt 1 9 (.v 10) { p := 3 }, .iadd64 {} 7 8 (.v 10) false, .iadd64 {} 8 10 (.s 11) false, .lea {} false 8 9 (.v 10) 0,
   .idp4 {} .i16 false false 8 9 (.v 10) 11, .mov {} .f64 7 (.v 8), .mov {} .m8 8 (.imm8 1), .sel {} .f64 8 9 (.v 10) 0 false, .emwr {} (.v 8),
   .prmov {} (.unpack 8 (.v 9)), .ualu {} .i32 .and false 1 2 (.s 3), .ualu {} .f32 .add true 1 2 (.s 3), .ualu {} .i32 .add false 1 2 (.v 3), .umov {} 1 none (.v 3),
   .fadd {} .f32 .rs {} 8 9 (.v 10), .fadd {} .m8 .rn {} 8 9 (.v 10), .ffma {} .f64 .rn {} 8 10 (.v 12) 13, .fmin {} .f32 { sat := true } 8 9 (.v 10),
   .fdiv {} .f16 .rn {} 8 9 (.v 10), .fsetp {} .f32 .eq {} 1 9 (.v 10) {} true, .frcp {} .f32 .rn { nb := true } 8 9, .fsqrt {} .f32 .rn { sat := true } 8 9,
   .fexp2 {} .f64 .rn {} 8 10, .frsq {} .f32 .rs {} 8 9, .fclass {} .e4m3 8 9, .fdot2 {} .f32 .rn {} 8 9 (.v 10) 11, .cvt {} .f32 .f32 .rn {} 8 9 0,
   .cvt {} .b32 .f32 .rn {} 8 9 0, .cvt {} .i32 .f32 .rs {} 8 9 0, .cvt {} .f16 .f32 .rn {} 8 9 2, .qnt {} .f16 .rn false 8 9 (.v 10) 0, .qnt {} .m8 .rn false 8 9 (.v 10) 4,
   .dqnt {} .m8 .rs 8 9 (.v 10) 0, .angrot {} .rot 8 9 (.v 10) 11, .angrot {} .cos 8 9 (.v 10) 11, .nanpl {} .f32 8 9 true, .sigq {} .f32 2 1 9 (.v 10) {},
   .sigget {} .f16 8 9 2, .sigset {} .f32 8 (.imm8 1) 1, .sigmin {} .i32 1 9, .ld {} .b64 false false 7 (.s 2) (.v 2) 0, .ld {} .b32 true false 8 (.s 2) (.v 2) 0,
   .ld {} .b32 false false 8 (.v 3) (.v 2) 0, .st {} .b128 6 (.s 2) (.v 2) 0, .lds {} .b32 true 8 (.s 2) (.v 2) 0, .sts {} .b64 7 (.s 2) (.v 2) 0, .ldt {} .b16 false 8 (.s 2) (.v 2) 0,
   .atom {} .and .i32 .rlx .dev 8 (.s 2) (.v 2) 9, .atoms {} .inc .b32 .rlx 8 (.s 2) (.v 2) 9, .red {} .exch .b32 .rlx .dev (.s 2) (.v 2) 9, .red {} .add .i32 .acq .dev (.s 2) (.v 2) 9,
   .cas {} true .rlx .dev 7 (.s 2) (.v 2) 8, .cass {} true .rlx 8 (.s 2) (.v 2) 9, .pref {} false (.v 3) (.v 2), .prefr {} 6 (.v 2), .cmo {} .clean .l1 6 (.v 2), .ldh {} .b8 8 10 (.v 2) 0,
   .barSync {} 0 (.v 2), .clarm {} 1 3 (.v 2), .clarv {} true 3 6 (.v 2), .clwait {} false 2 3 (.v 2), .waitp {} .w0 (.v 2), .join {} 1 10 (.v 2), .join {} 1 10 (.s 3),
   .coll {} .f64 .allreduce 100 10 30, .coll {} .f32 .allreduce 100 10 31, .tkstat {} 5 5 (.s 7), .tkstatWait {} 4 5 (.v 7), .tkreform {} 2 5 13, .htrans {} 7 10 (.v 2),
   .kvapp {} 41 10, .kvfork {} 23 10 2, .kvsetMap {} 44 10 (.v 3), .kvsetNew {} 45 10 (.s 3), .kvsetAbsent {} 10 (.v 3), .kvmove {} 45 10, .belayAdd {} 1 10 (.v 4), .belayDrop {} 1 10 (.v 4),
   .retireRcp {} 1 10 (.v 4), .retireBly {} 1 10 (.v 4), .rcpqState {} 6 5, .rcpqStep {} 5 4, .sched {} 3 20 (.v 2), .topk {} 600 (.v 5), .cntrd {} 40 0x0D, .cntrd {} 41 0x0A, .cntclr {} 0,
   .brx {} 701, .call {} 11 15, .ret {} 11, .trap {} (.s 1), .bkpt {} (.v 1), .csrr {} 8 0x50, .csrw {} 0x30 (.imm8 1), .csrw {} 0x20 (.v 1), .extensionOpcode 0x30D70A0203000000 0,
   .extensionOpcode 0xF3F70A0200000000 0]
theorem test_ill_formed_refused : (illFormed.all fun i => !i.wf) = true := by decide +kernel

/-! ### Single steps, with results of the spec's examples -/

/-- A group whose V registers hold words and tags: register, lane, word, tag. -/
def holding (l : List (Nat × Nat × Nat × Nat)) : Group :=
  { group with regs := l.map fun e => ((e.1 / 8) * 256 + e.1 % 8 * 32 + e.2.1, BitVec.ofNat 32 e.2.2.1, BitVec.ofNat 8 e.2.2.2) }
/-- What the instruction puts in flight for a register and a lane. -/
def flown (i : Instr) (g : Group) (d lane : Nat) : Option (Nat × Nat) :=
  match exec i (state ctx g) with
  | .next t => (viewOf t 1 0 0 0).bind fun v => (v.st.flights.getLast?).bind fun f =>
      (f.v.find? fun w => w.tile == d / 8 && w.reg == d % 8 && w.lane == lane).map fun w => (w.word.toNat, w.tag.toNat)
  | _ => none

/-- R141: `IADD.sat.i8` of 100 and 60 is 127, and −96 without .sat; `IMULH.i16` of −3 and 30,000 is 0xFFFE. -/
theorem test_iadd : flown (.iadd {} .i8 8 9 (.v 10) false false true) (holding [(9, 0, 100, 0xFF), (10, 0, 60, 0xFF)]) 8 0 = some (127, 0xFF) ∧
    flown (.iadd {} .i8 8 9 (.v 10) false false false) (holding [(9, 0, 100, 0xFF), (10, 0, 60, 0xFF)]) 8 0 = some (0xA0, 0xFF) := by decide +kernel
theorem test_imulh : flown (.imulh {} .i16 8 9 (.v 10)) (holding [(9, 0, 0xFFFD, 0xFF), (10, 0, 30000, 0xFF)]) 8 0 = some (0xFFFE, 0xFF) := by decide +kernel
/-- R143: A and not B by the table 0x22; the field of 12 bits at 8 of 0x9A00. -/
theorem test_blut : flown (.blut {} 3 4 (.v 5) 6 0x22) (holding [(4, 0, 0xFF00FF00, 0xFF), (5, 0, 0xF0F0F0F0, 0xFF), (6, 0, 0x12345678, 0xFF)]) 3 0 = some (0x0F000F00, 0xFF) := by
  decide +kernel
theorem test_bfe : flown (.bfe {} .i32 1 2 (.v 3)) (holding [(2, 0, 0x9A00, 0xFF), (3, 0, 0x0C08, 0xFF)]) 1 0 = some (0x9A, 0xFF) := by decide +kernel
/-- R145: 0x12_0000_0040 − 32. -/
theorem test_lea : (flown (.lea {} false 8 4 (.v 12) 3) (holding [(4, 0, 0x40, 0xFF), (5, 0, 0x12, 0xFF), (12, 0, 0xFFFFFFFC, 0xFF)]) 8 0,
    flown (.lea {} false 8 4 (.v 12) 3) (holding [(4, 0, 0x40, 0xFF), (5, 0, 0x12, 0xFF), (12, 0, 0xFFFFFFFC, 0xFF)]) 9 0) = (some (0x20, 0xFF), some (0x12, 0xFF)) := by
  decide +kernel
/-- R148, R149: an exited lane reads as 0 with tag 0, an inactive one as its word, one out of range as the lane's own. -/
theorem test_shfl : (let g := { holding ((List.range 32).map fun k => (2, k, 100 + k, 0xFF)) with strands := [{ strand with em := 0xFFFFFF5F, live := 0xFFFFFFDF }] }
    [0, 4, 5, 6, 7, 31].map fun k => flown (.shfl {} .down 9 2 (.imm8 1) 5) g 9 k) =
    [some (101, 0xFF), some (0, 0), none, some (107, 0xFF), none, some (131, 0xFF)] := by decide +kernel
/-- R174: 2.5 to FP4 ties to 2 (0100), 7.0 saturates to 6 (0111) with count bit 2 clear. -/
theorem test_cvt : (flown (.cvt {} .fp4 .f32 .rn { sat := true } 20 3 2) (holding [(3, 0, 0x40200000, 24), (3, 1, 0x40E00000, 24)]) 20 0,
    flown (.cvt {} .fp4 .f32 .rn { sat := true } 20 3 2) (holding [(3, 0, 0x40200000, 24), (3, 1, 0x40E00000, 24)]) 20 1) = (some (0x400, 0xFF), some (0x700, 0xFB)) := by
  decide +kernel
/-- R176: the four lanes of the example, scale 0.5. -/
theorem test_qnt : (let g := { holding [(3, 0, 0x40400000, 24), (3, 1, 0x3E99999A, 24), (3, 2, 0x459C4000, 24), (3, 3, 0x37000000, 24)] with sregs := [(10, 0x3F000000)] }
    [0, 1, 2, 3].map fun k => flown (.qnt {} .m8 .rn true 20 3 (.s 10) 0) g 20 k) = [some (0x3C, 0xFF), some (0x46, 0xFF), some (0x03, 0xFE), some (0x00, 0xFC)] := by decide +kernel
/-- R117: (1 + x) − 1 with x = 2⁻⁴ and 2⁻²⁰ leaves counts 20 and 4. -/
theorem test_fadd : (flown (.fadd {} .f32 .rn {} 2 1 (.imm8 0xFF)) (holding [(1, 0, 0x3F880000, 24), (1, 3, 0x3F800008, 24)]) 2 0,
    flown (.fadd {} .f32 .rn {} 2 1 (.imm8 0xFF)) (holding [(1, 0, 0x3F880000, 24), (1, 3, 0x3F800008, 24)]) 2 3) =
    (some (0x3D800000, 0x14), some (0x35800000, 0x04)) := by decide +kernel
/-- R139: a UMOV with no guard acts even when EM is zero, one whose guard holds in no lane does not. -/
theorem test_umov : (match exec (.umov {} 10 none (.imm8 5)) (state ctx (with_ { strand with em := 0 })), exec (.umov { p := 2 } 10 none (.imm8 5)) (state ctx (with_ { strand with p := #v[0, 0, 0, 0, 0, 0, 0] })) with
    | .next a, .next b => ((viewOf a 1 0 0 0).elim [] fun v => v.st.flights.flatMap (·.s)) == [(10, 5)] && (viewOf b 1 0 0 0).any fun v => v.st.flights.isEmpty
    | _, _ => false) = true := by decide +kernel
/-- R414: TICK raises STEP by one. -/
theorem test_tick : (match exec (.tick {}) (state { ctx with step := 0xFFFFFFFFFFFFFFFF } group) with
    | .next t => (getCtx t 1).any fun c => c.step == 0
    | _ => false) = true := by decide +kernel
/-- R453, R457, R460: what the windows read after reset, once the device is up; a reserved offset reads zero; before that the tenants'
windows do not answer. -/
theorem test_window_reset : ([0x150, 0x158, 0x148, 0x170, 0x000].map (windowRead { State.reset with boot := 2 } (some 3)),
    [0x8000, 0x1000].map (windowRead { State.reset with boot := 2 } none), windowRead { State.reset with boot := 1 } (some 3) 0x150) =
    ([some 0xFFFFFFFFFFFFFFFF, some 63, some 0, some 0, some 0], [some 0, some 0], none) := by decide +kernel
theorem witness_BundleRoundTrip : (match decodeWords 0x01730A022C005000 0 with
    | .ok _ => true
    | .error _ => false) = true := by decide +kernel
end Sys2Proof.Tests.Slice0
end

/-! PROOFS. The integer and bit instructions (R140 to R145): what their operands are as words, what each answers once it is
ready, and what the word it computes is. -/

namespace Sys2Proof.Machine

/-! ### Bits of the model's naturals -/

/-- The model's bit test is the library's. -/
theorem tbit_eq_testBit (x n : Nat) : tbit x n = x.testBit n := by
  rw [tbit, Nat.testBit_eq_decide_div_mod_eq, Bool.beq_eq_decide_eq]

@[simp] theorem tbit_toNat {w : Nat} (x : BitVec w) (n : Nat) : tbit x.toNat n = x.getLsbD n := tbit_eq_testBit _ _

theorem b2n_eq_toNat (b : Bool) : b2n b = b.toNat := by cases b <;> rfl

theorem b2n_mod_two (b : Bool) : b2n b % 2 = b2n b := by cases b <;> rfl

/-- Bit n of a word that is built from its bits. -/
theorem getLsbD_ofNat_bitSum (g : Nat → Bool) (n : Nat) (hn : n < 32) :
    (BitVec.ofNat 32 ((List.range 32).foldl (fun w k => w + b2n (g k) * 2 ^ k) 0)).getLsbD n = g n := by
  have h := buildSum_digit 1 32 n (fun k => b2n (g k)) hn
  simp only [Nat.pow_one, b2n_mod_two, Nat.one_mul] at h
  rw [BitVec.getLsbD_ofNat, Nat.testBit_eq_decide_div_mod_eq, h]
  cases hg : g n <;> simp [b2n, hn]

@[simp] theorem ofNat_mod_two_pow (w x : Nat) : BitVec.ofNat w (x % 2 ^ w) = BitVec.ofNat w x :=
  BitVec.eq_of_toNat_eq (by simp)

/-- A running total over a range is its sum, whose terms may be taken in any order. -/
theorem foldl_add_range (g : Nat → Nat) (n : Nat) : (List.range n).foldl (fun w k => w + g k) 0 = ∑ k ∈ Finset.range n, g k := by
  induction n with
  | zero => rfl
  | succ n ih => rw [List.range_succ, List.foldl_append, ih, Finset.sum_range_succ, List.foldl_cons, List.foldl_nil]

/-! ### Operands as words -/

/-- B's code under B32 is its word. -/
theorem srcB_code_b32 (v : View) (b : BSrc) (i : Nat) : (v.srcB .b32 b i).code = (v.bword b i).toNat := by
  have h : (v.srcB .b32 b i).code < 2 ^ 32 := by
    cases b with
    | v n => exact (readV v.g v.st n.val i).1.isLt
    | s n => exact (readS v.g n.val).isLt
    | imm8 n => exact buildWord_lt .b32 (fun _ => immElem .b32 n) (by decide)
    | imm32 w => exact w.isLt
  rw [View.bword, BitVec.toNat_ofNat, Nat.mod_eq_of_lt h]

/-- B's code under another format of one 32-bit integer is the same. -/
theorem srcB_code_word (v : View) (f : Fmt) (hf : f = .i32 ∨ f = .ui32) (b : BSrc) (i : Nat) :
    (v.srcB f b i).code = (v.bword b i).toNat := by
  rw [← srcB_code_b32]
  rcases hf with rfl | rfl <;> cases b <;> rfl

theorem srcV_code_word (v : View) (f : Fmt) (hf : f ≠ .f64) (n i : Nat) : (v.srcV f n i).code = (v.word n i).toNat := by
  simp only [View.srcV, hf, if_false]
  rfl

theorem srcV_code_pair (v : View) (n i : Nat) : (v.srcV .f64 n i).code = (v.pair n i).toNat := by
  have h : (v.word n i).toNat < 2 ^ 32 := (v.word n i).isLt
  rw [View.pair, BitVec.toNat_append, ← Nat.shiftLeft_add_eq_or_of_lt h, Nat.shiftLeft_eq, Nat.add_comm]
  rfl

/-! ### Instructions whose result flies -/

/-- A ready integer instruction of R140 flies the exact results of its elements (R141). -/
theorem fliesInt_of_intExec {i : Instr} {s : State} {v : View} {h : Hd} {f : Fmt} {lat : Nat} {sat : Bool} {x : Int → Int → Int → Int}
    {d a : VR} {b : BSrc} {c : Option VR} (hf : f ≠ .f64) (he : exec i s = intExec h f lat sat x d a b c s)
    (hr : Ready s v h (needV .va f [(0, d.val)] [(1, a.val)] b ((c.map fun n => (3, n.val)).toList))) :
    FliesInt i s v h f d b.len lat sat fun lane k =>
      x (v.elemV f a.val lane k) (v.elemB f b lane k) (elemInt f ((c.map fun n => (v.srcV f n.val lane).code).getD 0) k) := by
  rw [intExec, strandExec_ready _ hr] at he
  refine ⟨_, flies_putWords hr.1 he, fun lane k hk => ?_⟩
  simp only [charge_srcV, charge_srcB]
  rw [BitVec.toNat_ofNat, Nat.mod_eq_of_lt (intWord_lt f sat x _ _ _ hf), elemAt_intWord f sat x _ _ _ k hk, intCode_eq_intResult]
  rfl

/-- A ready bit instruction of R142 flies its word (R143). -/
theorem flies_of_bitExec {i : Instr} {s : State} {v : View} {h : Hd} {f : Fmt} {x : Nat → Nat → Nat → Nat}
    {d a : VR} {b : BSrc} {c : Option VR} (hf : f = .b32 ∨ f = .i32 ∨ f = .ui32) (he : exec i s = bitExec h f x d a b c s)
    (hr : Ready s v h (needV .vx f [(0, d.val)] [(1, a.val)] b ((c.map fun n => (3, n.val)).toList))) :
    Flies i s v b.len 4 (v.results h d fun lane => BitVec.ofNat 32
      (x (v.word a.val lane).toNat (v.srcB f b lane).code ((c.map fun n => (v.word n.val lane).toNat).getD 0))) [] := by
  have hf' : f ≠ .f64 := by rcases hf with rfl | rfl | rfl <;> decide
  rw [bitExec, strandExec_ready _ hr] at he
  have := flies_putWords hr.1 he
  simpa only [charge_srcV, charge_srcB, srcV_code_word v f hf', ofNat_mod_two_pow] using this

/-- Under B32 the words of A, B and C are the operands. -/
theorem flies_of_bitExec_b32 {i : Instr} {s : State} {v : View} {h : Hd} {x : Nat → Nat → Nat → Nat} {d a : VR} {b : BSrc}
    {c : Option VR} (he : exec i s = bitExec h .b32 x d a b c s)
    (hr : Ready s v h (needV .vx .b32 [(0, d.val)] [(1, a.val)] b ((c.map fun n => (3, n.val)).toList))) :
    Flies i s v b.len 4 (v.results h d fun lane => BitVec.ofNat 32
      (x (v.word a.val lane).toNat (v.bword b lane).toNat ((c.map fun n => (v.word n.val lane).toNat).getD 0))) [] := by
  simpa only [srcB_code_b32] using flies_of_bitExec (.inl rfl) he hr

/-! ### What `exec` runs for the integer and bit instructions -/

theorem exec_iadd (h : Hd) (f : Fmt) (d a : VR) (b : BSrc) (na nb sat : Bool) (s : State) :
    exec (.iadd h f d a b na nb sat) s = execIadd h f d a b na nb sat s := rfl
theorem exec_isub (h : Hd) (f : Fmt) (d a : VR) (b : BSrc) (sat : Bool) (s : State) :
    exec (.isub h f d a b sat) s = execIsub h f d a b sat s := rfl
theorem exec_imul (h : Hd) (f : Fmt) (d a : VR) (b : BSrc) (sat : Bool) (s : State) :
    exec (.imul h f d a b sat) s = execImul h f d a b sat s := rfl
theorem exec_imulh (h : Hd) (f : Fmt) (d a : VR) (b : BSrc) (s : State) :
    exec (.imulh h f d a b) s = execImulh h f d a b s := rfl
theorem exec_imad (h : Hd) (f : Fmt) (d a : VR) (b : BSrc) (c : VR) (sat : Bool) (s : State) :
    exec (.imad h f d a b c sat) s = execImad h f d a b c sat s := rfl
theorem exec_imin (h : Hd) (f : Fmt) (d a : VR) (b : BSrc) (s : State) :
    exec (.imin h f d a b) s = execImin h f d a b s := rfl
theorem exec_imax (h : Hd) (f : Fmt) (d a : VR) (b : BSrc) (s : State) :
    exec (.imax h f d a b) s = execImax h f d a b s := rfl
theorem exec_iadd64 (h : Hd) (d a : VR) (b : BSrc) (nb : Bool) (s : State) :
    exec (.iadd64 h d a b nb) s = execIadd64 h d a b nb s := rfl
theorem exec_lea (h : Hd) (u : Bool) (d a : VR) (b : BSrc) (sh : Fin 8) (s : State) :
    exec (.lea h u d a b sh) s = execLea h u d a b sh s := rfl
theorem exec_idp4 (h : Hd) (f : Fmt) (mix sat : Bool) (d a : VR) (b : BSrc) (c : VR) (s : State) :
    exec (.idp4 h f mix sat d a b c) s = execIdp4 h f mix sat d a b c s := rfl
theorem exec_band (h : Hd) (d a : VR) (b : BSrc) (s : State) :
    exec (.band h d a b) s = execBand h d a b s := rfl
theorem exec_bor (h : Hd) (d a : VR) (b : BSrc) (s : State) :
    exec (.bor h d a b) s = execBor h d a b s := rfl
theorem exec_bxor (h : Hd) (d a : VR) (b : BSrc) (s : State) :
    exec (.bxor h d a b) s = execBxor h d a b s := rfl
theorem exec_blut (h : Hd) (d a : VR) (b : BSrc) (c : VR) (tab : BitVec 8) (s : State) :
    exec (.blut h d a b c tab) s = execBlut h d a b c tab s := rfl
theorem exec_shl (h : Hd) (d a : VR) (b : BSrc) (s : State) :
    exec (.shl h d a b) s = execShl h d a b s := rfl
theorem exec_shr (h : Hd) (d a : VR) (b : BSrc) (s : State) :
    exec (.shr h d a b) s = execShr h d a b s := rfl
theorem exec_sar (h : Hd) (d a : VR) (b : BSrc) (s : State) :
    exec (.sar h d a b) s = execSar h d a b s := rfl
theorem exec_shd (h : Hd) (left md : Bool) (d a : VR) (b : BSrc) (c : VR) (s : State) :
    exec (.shd h left md d a b c) s = execShd h left md d a b c s := rfl
theorem exec_popc (h : Hd) (d a : VR) (s : State) :
    exec (.popc h d a) s = execPopc h d a s := rfl
theorem exec_clz (h : Hd) (d a : VR) (s : State) :
    exec (.clz h d a) s = execClz h d a s := rfl
theorem exec_brev (h : Hd) (d a : VR) (s : State) :
    exec (.brev h d a) s = execBrev h d a s := rfl
theorem exec_bfe (h : Hd) (f : Fmt) (d a : VR) (b : BSrc) (s : State) :
    exec (.bfe h f d a b) s = execBfe h f d a b s := rfl
theorem exec_bfi (h : Hd) (d a : VR) (b : BSrc) (c : VR) (s : State) :
    exec (.bfi h d a b c) s = execBfi h d a b c s := rfl

/-! ### 64-bit results -/

/-- The two words of a 64-bit code written to a pair (R90). -/
theorem resultWrites_f64 (v : View) (h : Hd) (d : VR) (r : Nat → Nat) :
    v.resultWrites .f64 d.val (v.st.acting h) (fun i => (r i, 0xFF)) = v.results64 h d fun i => BitVec.ofNat 64 (r i) := by
  have hlo : ∀ c, (BitVec.ofNat 64 c).extractLsb' 0 32 = BitVec.ofNat 32 c := fun c => by
    apply BitVec.eq_of_toNat_eq
    simp only [BitVec.extractLsb'_toNat, BitVec.toNat_ofNat, Nat.shiftRight_zero]
    omega
  have hhi : ∀ c, (BitVec.ofNat 64 c).extractLsb' 32 32 = BitVec.ofNat 32 (c / 2 ^ 32) := fun c => by
    apply BitVec.eq_of_toNat_eq
    simp only [BitVec.extractLsb'_toNat, BitVec.toNat_ofNat, Nat.shiftRight_eq_div_pow]
    omega
  simp only [View.resultWrites, View.results64, hlo, hhi, if_true]

/-- A 64-bit result in the acting lanes flies. -/
theorem flies_results64 {i : Instr} {s : State} {v : View} {n : Need} {h : Hd} {len lat : Nat} {d : VR} {r : Nat → Nat}
    (hv : curView s = some v)
    (he : exec i s = .next ((((v.charge n).fly lat
      ((v.charge n).resultWrites .f64 d.val ((v.charge n).st.acting h) fun i => (r i, 0xFF)) []).advance len).put)) :
    Flies i s v len lat (v.results64 h d fun i => BitVec.ofNat 64 (r i)) [] :=
  flies_of_fly (n := n) hv (by rw [he, resultWrites_f64, charge_results64])

/-- The model's sign extension of a word is the library's. -/
theorem sext64_toNat (x : Word) : sext64 32 x.toNat = (x.signExtend 64).toNat := by
  have hx := x.isLt
  rw [sext64, Nat.mod_eq_of_lt hx, BitVec.toNat_signExtend, BitVec.toNat_setWidth, BitVec.msb_eq_decide]
  by_cases hs : 2 ^ 31 ≤ x.toNat
  · simp only [hs, decide_true, if_true, Nat.add_one_sub_one, ne_eq, OfNat.ofNat_ne_zero, not_false_eq_true, and_self]
    omega
  · simp only [hs, decide_false, Bool.false_eq_true, if_false, Nat.add_one_sub_one, and_false]
    omega

/-- The 64-bit value of IADD64's B: a pair, or an immediate extended by its sign (R145). -/
def View.addend64 (v : View) (b : BSrc) (lane : Nat) : DWord :=
  match b with
  | .v n => v.pair n.val lane
  | .s n => readSS v.g n.val
  | .imm8 n => n.signExtend 64
  | .imm32 w => w.signExtend 64

/-- A signed 8-bit immediate under I32 is itself extended by its sign (R51). -/
theorem srcB_code_imm8 (v : View) (n : BitVec 8) (i : Nat) : (v.srcB .i32 (.imm8 n) i).code = (n.signExtend 32).toNat := by
  have h : (v.srcB .i32 (.imm8 n) i).code = (n.toInt % (2 ^ 32 : Nat)).toNat := by
    show 0 + intCode .i32 n.toInt % 2 ^ Fmt.i32.width * 2 ^ (32 * 0) = intCode .i32 n.toInt
    rw [Nat.mod_eq_of_lt (intCode_lt .i32 _)]
    omega
  rw [h, BitVec.signExtend, BitVec.toNat_ofInt]

/-- IADD64 reads B as that value. -/
theorem wide64_eq (v : View) (b : BSrc) (i : Nat) : v.wide64 b i = (v.addend64 b i).toNat := by
  cases b with
  | v n => exact srcV_code_pair v n.val i
  | s n => rfl
  | imm8 n =>
    have h : (n.signExtend 32).signExtend 64 = n.signExtend 64 := by
      rw [BitVec.signExtend, BitVec.toInt_signExtend_of_le (by decide)]
      rfl
    show sext64 32 _ = (n.signExtend 64).toNat
    rw [srcB_code_imm8, sext64_toNat, h]
  | imm32 w => exact sext64_toNat w

@[simp] theorem charge_addend64 (v : View) (n : Need) (b : BSrc) (i : Nat) : (v.charge n).addend64 b i = v.addend64 b i := by
  cases b <;> rfl

/-- IADD64's sum (R145). -/
theorem ofNat_add_or_sub (x y : DWord) (nb : Bool) :
    BitVec.ofNat 64 ((x.toNat + if nb then 2 ^ 64 - y.toNat else y.toNat) % 2 ^ 64) = if nb then x - y else x + y := by
  cases nb <;> apply BitVec.eq_of_toNat_eq <;> simp [BitVec.toNat_sub, Nat.add_comm]

/-- A ready IADD64 flies its 64-bit sum or difference (R145). -/
theorem iadd64_flies {s : State} {v : View} {h : Hd} {d a : VR} {b : BSrc} {nb : Bool}
    (hr : Ready s v h (needV .va .f64 (vNames .f64 0 d) (vNames .f64 1 a) b [])) :
    Flies (.iadd64 h d a b nb) s v b.len 6 (v.results64 h d fun i =>
      if nb then v.pair a.val i - v.addend64 b i else v.pair a.val i + v.addend64 b i) [] := by
  have := flies_results64 hr.1 ((exec_iadd64 h d a b nb s).trans (strandExec_ready _ hr))
  simpa only [charge_srcV, srcV_code_pair, wide64_eq, charge_addend64, ofNat_add_or_sub] using this

/-- LEA's sum: B's word extended, then shifted (R145). -/
theorem ofNat_add_shifted (x : DWord) (y : Word) (u : Bool) (n : Nat) :
    BitVec.ofNat 64 ((x.toNat + (if u then y.toNat else sext64 32 y.toNat) * 2 ^ n) % 2 ^ 64) =
      x + ((if u then y.zeroExtend 64 else y.signExtend 64) <<< n) := by
  apply BitVec.eq_of_toNat_eq
  cases u <;> simp [sext64_toNat, Nat.shiftLeft_eq]

/-- A ready LEA flies its 64-bit address (R145). -/
theorem lea_flies {s : State} {v : View} {h : Hd} {u : Bool} {d a : VR} {b : BSrc} {sh : Fin 8}
    (hr : Ready s v h { port := .va, len := b.len, named := vNames .f64 0 d ++ vNames .f64 1 a ++ b.vs .i32, sregs := b.ss .i32 }) :
    Flies (.lea h u d a b sh) s v b.len 6 (v.results64 h d fun i =>
      v.pair a.val i + ((if u then (v.bword b i).zeroExtend 64 else (v.bword b i).signExtend 64) <<< sh.val)) [] := by
  have := flies_results64 hr.1 ((exec_lea h u d a b sh s).trans (strandExec_ready _ hr))
  simpa only [charge_srcV, charge_srcB, srcV_code_pair, srcB_code_word v .i32 (.inl rfl), ofNat_add_shifted] using this

/-! ### Dot products -/

theorem elemInt_i32_toNat (x : Word) : elemInt .i32 x.toNat 0 = x.toInt := by
  have h : elemAt .i32 x.toNat 0 = x.toNat := by
    show x.toNat / 2 ^ (32 * 0) % 2 ^ 32 = x.toNat
    have := x.isLt
    omega
  rw [elemInt, h, BitVec.toInt_eq_msb_cond, BitVec.msb_eq_getLsbD_last]
  simp only [tbit_toNat, Fmt.signed, Fmt.width, Bool.true_and]

/-- IDP4's word is the result of its exact sum (R145). -/
theorem dpWord_eq (f : Fmt) (mix sat : Bool) (x y : Nat) (z : Word) :
    let other : Fmt := if mix then (if f = .i8 then .ui8 else .i8) else f
    let at_ := fun k => elemInt f x k * elemInt other y k
    dpWord f mix sat x y z.toNat = intResult .i32 sat (z.toInt + at_ 0 + at_ 1 + at_ 2 + at_ 3) := by
  rw [dpWord, intCode_eq_intResult, elemInt_i32_toNat]
  rfl

theorem intResult_i32_lt (sat : Bool) (x : Int) : intResult .i32 sat x < 2 ^ 32 := by
  rw [← intCode_eq_intResult]
  exact intCode_lt .i32 _

/-- A ready IDP4 flies its dot product (R145). -/
theorem idp4_flies {s : State} {v : View} {h : Hd} {f : Fmt} {mix sat : Bool} {d a : VR} {b : BSrc} {c : VR}
    (hr : Ready s v h (needV .va f [(0, d.val)] [(1, a.val)] b [(3, c.val)])) :
    Flies (.idp4 h f mix sat d a b c) s v b.len 6 (v.results h d fun i => BitVec.ofNat 32
      (dpWord f mix sat (v.srcV f a.val i).code (v.srcB f b i).code (v.word c.val i).toNat)) [] := by
  have := flies_putWords hr.1 ((exec_idp4 h f mix sat d a b c s).trans (strandExec_ready _ hr))
  simpa only [charge_srcV, charge_srcB, srcV_code_word v .b32 (by decide)] using this

/-! ### Integer arithmetic settled -/

/-- Settles O1: the seven element-wise forms by `fliesInt_of_intExec`, the wide and packed ones by their own word lemmas. -/
theorem integerArithmetic : Obligations.IntegerArithmetic := by
  refine ⟨fun s v h f d a b c na nb sat =>
    ⟨fun hr => ⟨fun hw => ?iadd, fun hw => ?isub, fun hw => ?imul, fun hw => ?imulh, fun hw => ?imin, fun hw => ?imax⟩,
      fun hr hw => ?imad⟩,
    fun s v h f d a b c nb u mix sat sh => ⟨fun hr _ => iadd64_flies hr, lea_flies, fun hr _ => ?idp4⟩⟩
  case iadd => exact (fliesInt_of_intExec (c := none) (by rintro rfl; nomatch hw) (exec_iadd ..) hr :)
  case isub => exact (fliesInt_of_intExec (c := none) (by rintro rfl; nomatch hw) (exec_isub ..) hr :)
  case imul => exact (fliesInt_of_intExec (c := none) (by rintro rfl; nomatch hw) (exec_imul ..) hr :)
  case imulh => exact (fliesInt_of_intExec (c := none) (by rintro rfl; nomatch hw) (exec_imulh ..) hr :)
  case imin => exact (fliesInt_of_intExec (c := none) (by rintro rfl; nomatch hw) (exec_imin ..) hr :)
  case imax => exact (fliesInt_of_intExec (c := none) (by rintro rfl; nomatch hw) (exec_imax ..) hr :)
  case imad => exact (fliesInt_of_intExec (c := some c) (by rintro rfl; nomatch hw) (exec_imad ..) hr :)
  case idp4 =>
    refine ⟨_, idp4_flies hr, fun i => ?_⟩
    rw [dpWord_eq, BitVec.toNat_ofNat, Nat.mod_eq_of_lt (intResult_i32_lt _ _)]

/-! ### The words of the bit instructions (R143) -/

theorem getLsbD_ofNat_lutWord (tab : BitVec 8) (x y z : Word) (n : Nat) (hn : n < 32) :
    (BitVec.ofNat 32 (lutWord tab x.toNat y.toNat z.toNat)).getLsbD n =
      tab.getLsbD ((x.getLsbD n).toNat + 2 * (y.getLsbD n).toNat + 4 * (z.getLsbD n).toNat) := by
  rw [lutWord, getLsbD_ofNat_bitSum _ n hn]
  simp only [tbit_toNat, b2n_eq_toNat]

/-- BREV's sum of bits in rising order: the bit at n is A's bit 31 - n. -/
theorem revWord_eq_bitSum (x : Nat) :
    revWord x = (List.range 32).foldl (fun w n => w + b2n (tbit x (31 - n)) * 2 ^ n) 0 := by
  rw [revWord, foldl_add_range, foldl_add_range, ← Finset.sum_range_reflect]
  refine Finset.sum_congr rfl fun n hn => ?_
  have := Finset.mem_range.mp hn
  rw [show 31 - (32 - 1 - n) = n by omega]

theorem getLsbD_ofNat_revWord (x : Word) (n : Nat) (hn : n < 32) : (BitVec.ofNat 32 (revWord x.toNat)).getLsbD (31 - n) = x.getLsbD n := by
  rw [revWord_eq_bitSum, getLsbD_ofNat_bitSum _ _ (by omega), tbit_toNat, show 31 - (31 - n) = n by omega]

theorem ofNat_shlWord (x : Word) (m : Nat) : BitVec.ofNat 32 (shlWord x.toNat m) = x <<< m := by
  by_cases hm : 32 ≤ m
  · rw [shlWord, if_pos hm, BitVec.shiftLeft_eq_zero hm]
  · rw [shlWord, if_neg hm, ofNat_mod_two_pow, ← Nat.shiftLeft_eq]
    rfl

theorem ofNat_shrWord (x : Word) (m : Nat) : BitVec.ofNat 32 (shrWord x.toNat m) = x >>> m := by
  by_cases hm : 32 ≤ m
  · rw [shrWord, if_pos hm, BitVec.ushiftRight_eq_zero hm]
  · rw [shrWord, if_neg hm, ← Nat.shiftRight_eq_div_pow, ← BitVec.toNat_ushiftRight, BitVec.ofNat_toNat, BitVec.setWidth_eq]

/-- An amount past 31 leaves only copies of the sign, as 31 does (R143). -/
theorem ofNat_sarWord (x : Word) (m : Nat) : BitVec.ofNat 32 (sarWord x.toNat m) = x.sshiftRight m := by
  have h : x.sshiftRight (min m 31) = x.sshiftRight m := by
    by_cases hm : m ≤ 31
    · rw [Nat.min_eq_left hm]
    · rw [Nat.min_eq_right (by omega)]
      refine BitVec.eq_of_getLsbD_eq fun i hi => ?_
      simp only [BitVec.getLsbD_sshiftRight]
      rcases Nat.eq_zero_or_pos i with rfl | hi0
      · simp [BitVec.msb_eq_getLsbD_last, show ¬ m < 32 by omega]
      · simp [show ¬ m + i < 32 by omega, show ¬ 31 + i < 32 by omega]
  rw [sarWord]
  simp only [BitVec.ofNat_toNat, BitVec.setWidth_eq, h]

theorem ofNat_shdWord (left md : Bool) (x y z : Word) : BitVec.ofNat 32 (shdWord left md x.toNat y.toNat z.toNat) =
    let m := if md then y.toNat % 32 else min y.toNat 32
    let p : BitVec 64 := z ++ x
    if left then (p <<< m).extractLsb' 32 32 else (p >>> m).extractLsb' 0 32 := by
  have hp : (z ++ x).toNat = z.toNat * 2 ^ 32 + x.toNat := by
    rw [BitVec.toNat_append, ← Nat.shiftLeft_add_eq_or_of_lt x.isLt, Nat.shiftLeft_eq]
  simp only [shdWord, ← hp]
  cases left <;> apply BitVec.eq_of_toNat_eq <;> simp [Nat.shiftLeft_eq, Nat.shiftRight_eq_div_pow]

theorem toNat_ofNat_popWord (x : Word) :
    (BitVec.ofNat 32 (popWord x.toNat)).toNat = ((List.range 32).filter fun n => x.getLsbD n).length := by
  have h : ((List.range 32).filter fun n => x.getLsbD n).length ≤ 32 := by
    simpa using List.length_filter_le (fun n => x.getLsbD n) (List.range 32)
  simp only [popWord, tbit_toNat, BitVec.toNat_ofNat]
  omega

/-- The leading zeros of a word whose highest 1 bit is bit n. -/
theorem clzWord_of_top (x : Word) (n : Nat) (hn : x.getLsbD n = true) (htop : ∀ m, n < m → x.getLsbD m = false) :
    clzWord x.toNat = 31 - n := by
  have hlo : 2 ^ n ≤ x.toNat := Nat.ge_two_pow_of_testBit hn
  have hhi : x.toNat < 2 ^ (n + 1) := Nat.lt_pow_two_of_testBit _ fun m hm => htop m (by omega)
  have h0 : x.toNat ≠ 0 := by have := Nat.two_pow_pos n; omega
  rw [clzWord, if_neg h0, (Nat.log2_eq_iff h0).mpr ⟨hlo, hhi⟩]

/-- The mask of BFI's field. -/
theorem testBit_bfiMask (len pos n : Nat) (hn : n < 32) :
    ((2 ^ len - 1) * 2 ^ pos % 2 ^ 32).testBit n = decide (pos ≤ n ∧ n < pos + len) := by
  rw [Nat.testBit_mod_two_pow, Nat.testBit_mul_two_pow, Nat.testBit_two_pow_sub_one]
  simp only [hn, decide_true, Bool.true_and, ← Bool.decide_and]
  congr 1
  apply propext
  omega

/-- Bits of one word kept outside a mask and taken from another inside it. -/
theorem ofNat_masked (x : Nat) (z m : Word) : BitVec.ofNat 32 (z.toNat - (z.toNat &&& m.toNat) + (x &&& m.toNat)) =
    (z &&& ~~~m) ||| (BitVec.ofNat 32 x &&& m) := by
  have hsplit : (z &&& ~~~m) + (z &&& m) = z := by
    rw [BitVec.add_eq_or_of_and_eq_zero _ _ (by ext; simp; tauto)]
    ext i hi
    cases hm : m[i] <;> simp [hm]
  have hsub : z.toNat - (z.toNat &&& m.toNat) = (z &&& ~~~m).toNat := by
    have hle : (z &&& m).toNat ≤ z.toNat := Nat.and_le_left
    rw [← BitVec.toNat_and, ← BitVec.toNat_sub_of_le hle, ← BitVec.eq_sub_iff_add_eq.mpr hsplit]
  rw [hsub, BitVec.ofNat_add, BitVec.ofNat_and, BitVec.ofNat_toNat, BitVec.setWidth_eq, BitVec.ofNat_toNat, BitVec.setWidth_eq,
    BitVec.add_eq_or_of_and_eq_zero _ _ (by ext; simp; tauto)]

theorem getLsbD_ofNat_bfiWord (x y z : Word) (n : Nat) (hn : n < 32) :
    let pos := y.toNat % 256
    let len := min (y.toNat / 256 % 256) 32
    (BitVec.ofNat 32 (bfiWord x.toNat y.toNat z.toNat)).getLsbD n =
      if pos ≤ n ∧ n < pos + len then x.getLsbD (n - pos) else z.getLsbD n := by
  intro pos len
  have hm : (BitVec.ofNat 32 ((2 ^ len - 1) * 2 ^ pos)).getLsbD n = decide (pos ≤ n ∧ n < pos + len) := by
    rw [← testBit_bfiMask len pos n hn]
    rfl
  have hx : (BitVec.ofNat 32 (x.toNat * 2 ^ pos)).getLsbD n = (decide (pos ≤ n) && x.getLsbD (n - pos)) := by
    rw [BitVec.getLsbD_ofNat, Nat.testBit_mul_two_pow]
    simp [hn, BitVec.getLsbD]
  have := ofNat_masked (x.toNat * 2 ^ pos) z (BitVec.ofNat 32 ((2 ^ len - 1) * 2 ^ pos))
  rw [show BitVec.ofNat 32 (bfiWord x.toNat y.toNat z.toNat) = _ from this]
  simp only [BitVec.getLsbD_or, BitVec.getLsbD_and, BitVec.getLsbD_not, hm, hx, hn]
  by_cases h : pos ≤ n ∧ n < pos + len
  · simp [h]
  · simp [h]

/-- The bits of A from a position up, those from bit 32 up reading as its sign or as zero (R143, BFE). -/
def fieldFrom (signed : Bool) (w : Word) (pos : Nat) : Word := if signed then w.sshiftRight pos else w >>> pos

theorem getLsbD_fieldFrom (signed : Bool) (w : Word) (pos n : Nat) (hn : n < 32) :
    (fieldFrom signed w pos).getLsbD n = if pos + n < 32 then w.getLsbD (pos + n) else (signed && w.getLsbD 31) := by
  cases signed
  · by_cases h : pos + n < 32
    · simp [fieldFrom, h]
    · simp [fieldFrom, h, BitVec.getLsbD_of_ge w (pos + n) (by omega)]
  · simp [fieldFrom, BitVec.getLsbD_sshiftRight, BitVec.msb_eq_getLsbD_last, show ¬ 32 ≤ n by omega]

/-- The exact quotient that BFE's field is the low bits of. -/
theorem bfe_quotient_mod_eq (signed : Bool) (w : Word) (pos len : Nat) (hlen : len ≤ 32) :
    (if signed && tbit w.toNat 31 then (w.toNat : Int) - (2 ^ 32 : Nat) else w.toNat) / (2 ^ pos : Nat) % (2 ^ len : Nat) =
      (((fieldFrom signed w pos).setWidth len).toNat : Int) := by
  cases signed
  · simp [fieldFrom, Nat.shiftRight_eq_div_pow]
  · have hw : (if true && tbit w.toNat 31 then (w.toNat : Int) - (2 ^ 32 : Nat) else w.toNat) = w.toInt := by
      rw [BitVec.toInt_eq_msb_cond, BitVec.msb_eq_getLsbD_last, tbit_toNat, Bool.true_and]
    have hq : w.toInt / (2 ^ pos : Nat) = (w.sshiftRight pos).toInt := by
      rw [BitVec.toInt_sshiftRight, Int.shiftRight_eq_div_pow]
    have h0 : (0 : Int) ≤ (w.sshiftRight pos).toInt % (2 ^ len : Nat) := Int.emod_nonneg _ (by exact_mod_cast (Nat.two_pow_pos len).ne')
    rw [hw, hq, fieldFrom, if_pos rfl, ← BitVec.signExtend_eq_setWidth_of_le _ hlen, BitVec.signExtend, BitVec.toNat_ofInt,
      Int.toNat_of_nonneg h0]

/-- A field of at least one bit extended by its sign. -/
theorem ofNat_signedField {len : Nat} (hlen : len ≠ 0) (q : BitVec len) :
    BitVec.ofNat 32 (if 2 ^ (len - 1) ≤ q.toNat then (((q.toNat : Int) - (2 ^ len : Nat)) % (2 ^ 32 : Nat)).toNat else q.toNat) =
      q.signExtend 32 := by
  have hp : 2 ^ len = 2 * 2 ^ (len - 1) := by rw [← Nat.pow_succ']; congr 1; omega
  apply BitVec.eq_of_toNat_eq
  rw [BitVec.toNat_ofNat, BitVec.signExtend, BitVec.toNat_ofInt, BitVec.toInt_eq_toNat_cond]
  by_cases h : 2 ^ (len - 1) ≤ q.toNat
  · rw [if_pos h, if_neg (by omega)]
    omega
  · rw [if_neg h, if_pos (by omega)]
    omega

/-- BFE's word is its field extended (R143). -/
theorem ofNat_bfeWord (signed : Bool) (w : Word) (y : Nat) : BitVec.ofNat 32 (bfeWord signed w.toNat y) =
    let q := (fieldFrom signed w (y % 256)).setWidth (min (y / 256 % 256) 32)
    if signed then q.signExtend 32 else q.setWidth 32 := by
  have hfld := bfe_quotient_mod_eq signed w (y % 256) (min (y / 256 % 256) 32) (Nat.min_le_right _ _)
  have hb : bits y 15 8 = y / 256 % 256 := rfl
  simp only [bfeWord, hb, hfld]
  generalize min (y / 256 % 256) 32 = len
  generalize (fieldFrom signed w (y % 256)).setWidth len = q
  by_cases h0 : len = 0
  · subst h0
    cases signed <;> simp [BitVec.eq_nil q]
  · cases signed
    · simp [h0]
    · simp only [if_neg h0, Bool.true_and, if_true, Nat.cast_le, decide_eq_true_eq, Int.toNat_natCast]
      exact ofNat_signedField h0 q

theorem getLsbD_ofNat_bfeWord (signed : Bool) (w : Word) (y n : Nat) (hn : n < 32) :
    let len := min (y / 256 % 256) 32
    let fld := fun n => if y % 256 + n < 32 then w.getLsbD (y % 256 + n) else (signed && w.getLsbD 31)
    (BitVec.ofNat 32 (bfeWord signed w.toNat y)).getLsbD n = if n < len then fld n else (signed && len != 0 && fld (len - 1)) := by
  intro len fld
  have hlen : len ≤ 32 := Nat.min_le_right _ _
  have hq : ∀ m, m < 32 → ((fieldFrom signed w (y % 256)).setWidth len).getLsbD m = (decide (m < len) && fld m) := fun m hm => by
    rw [BitVec.getLsbD_setWidth, getLsbD_fieldFrom signed w _ m hm]
  have hmsb : ((fieldFrom signed w (y % 256)).setWidth len).msb = (len != 0 && fld (len - 1)) := by
    have hpos : decide (len - 1 < len) = (len != 0) := Bool.eq_iff_iff.mpr (by simp; omega)
    rw [BitVec.msb_eq_getLsbD_last, hq _ (by omega), hpos]
  rw [ofNat_bfeWord]
  show (if signed then ((fieldFrom signed w (y % 256)).setWidth len).signExtend 32
    else ((fieldFrom signed w (y % 256)).setWidth len).setWidth 32).getLsbD n = _
  by_cases hs : signed
  · rw [if_pos hs, BitVec.getLsbD_signExtend, hmsb, hq n hn]
    by_cases h : n < len <;> simp [h, hs, hn]
  · rw [if_neg hs, BitVec.getLsbD_setWidth, hq n hn]
    by_cases h : n < len <;> simp [h, hs, hn]

/-! ### Bit instructions settled -/

/-- Settles O2: each form flies the word `bitExec` computes, and the word lemmas above say what that word is. -/
theorem wordBits : Obligations.WordBits := by
  refine ⟨fun s v h d a b c tab => ⟨fun hr => ⟨?band, ?bor, ?bxor⟩, fun hr => ?blut⟩,
    fun s v h d a b c left md => ⟨fun hr => ⟨?shl, ?shr, ?sar⟩, fun hr => ?shd⟩,
    fun s v h f d a b c => ⟨fun hr => ⟨?popc, ?clz, ?brev⟩, fun hr hw => ?bfe, fun hr => ?bfi⟩⟩
  case band => simpa using flies_of_bitExec_b32 (c := none) (exec_band h d a b s) hr
  case bor => simpa using flies_of_bitExec_b32 (c := none) (exec_bor h d a b s) hr
  case bxor => simpa using flies_of_bitExec_b32 (c := none) (exec_bxor h d a b s) hr
  case blut =>
    exact ⟨_, flies_of_bitExec_b32 (c := some c) (exec_blut h d a b c tab s) hr, fun i => getLsbD_ofNat_lutWord tab _ _ _⟩
  case shl => simpa only [ofNat_shlWord] using flies_of_bitExec_b32 (c := none) (exec_shl h d a b s) hr
  case shr => simpa only [ofNat_shrWord] using flies_of_bitExec_b32 (c := none) (exec_shr h d a b s) hr
  case sar => simpa only [ofNat_sarWord] using flies_of_bitExec_b32 (c := none) (exec_sar h d a b s) hr
  case shd =>
    simpa only [Option.map_some, Option.getD_some, ofNat_shdWord] using
      flies_of_bitExec_b32 (c := some c) (exec_shd h left md d a b c s) hr
  case popc => exact ⟨_, flies_of_bitExec_b32 (c := none) (exec_popc h d a s) hr, fun i => toNat_ofNat_popWord _⟩
  case clz =>
    refine ⟨_, flies_of_bitExec_b32 (c := none) (exec_clz h d a s) hr, fun i => ⟨fun h0 => ?_, fun n _ hn htop => ?_⟩⟩
    · rw [h0]
      rfl
    · rw [clzWord_of_top _ n hn htop, BitVec.toNat_ofNat, Nat.mod_eq_of_lt (by omega)]
  case brev => exact ⟨_, flies_of_bitExec_b32 (c := none) (exec_brev h d a s) hr, fun i => getLsbD_ofNat_revWord _⟩
  case bfe =>
    have hf : f = .b32 ∨ f = .i32 ∨ f = .ui32 := by right; simpa [Instr.wf] using hw
    refine ⟨_, flies_of_bitExec (c := none) hf (exec_bfe h f d a b s) hr, fun i => ?_⟩
    simpa only [beq_eq_decide] using getLsbD_ofNat_bfeWord (decide (f = .i32)) (v.word a.val i) (v.srcB f b i).code
  case bfi => exact ⟨_, flies_of_bitExec_b32 (c := some c) (exec_bfi h d a b c s) hr, fun i => getLsbD_ofNat_bfiWord _ _ _⟩

end Sys2Proof.Machine

/-! PROOFS. A lane's memory address (R275, R276): the displacement in bytes, the base, and their sum with the index. -/

namespace Sys2Proof.Machine

/-- The model's sign extension is the library's for a field of any width up to 64, not only for a word (`sext64_toNat`). -/
theorem sext64_toNat_of_le {n : Nat} (hn : 0 < n) (hle : n ≤ 64) (x : BitVec n) : sext64 n x.toNat = (x.signExtend 64).toNat := by
  have hx := x.isLt
  have hp : 2 ^ n ≤ 2 ^ 64 := Nat.pow_le_pow_right (by decide) hle
  rw [sext64, Nat.mod_eq_of_lt hx, BitVec.toNat_signExtend, BitVec.toNat_setWidth_of_le hle, BitVec.msb_eq_decide]
  by_cases hs : 2 ^ (n - 1) ≤ x.toNat
  · simp only [hs, hn.ne', decide_true, if_true, ne_eq, not_false_eq_true, and_self]
    omega
  · simp only [hs, decide_false, Bool.false_eq_true, if_false, and_false, Nat.add_zero]

/-- A displacement in bytes is the field extended by its sign, times the width (R275). -/
theorem dispBytes_eq (disp : BitVec 8) (w : Width) :
    dispBytes disp w = (disp.signExtend 64 * BitVec.ofNat 64 w.bytes).toNat := by
  rw [dispBytes, sext64_toNat_of_le (by decide) (by decide), BitVec.toNat_mul, BitVec.toNat_ofNat, Nat.mul_mod_mod]

/-- A global operand's base in a lane: a pair of V or of uniform registers (R276). -/
def View.base64 (v : View) (base : MBase) (lane : Nat) : DWord :=
  match base with
  | .v n => v.pair n.val lane
  | .s n => readSS v.g (2 * n.val)

/-- A shared operand's base in a lane: one register (R276). -/
def View.base32 (v : View) (base : MBase) (lane : Nat) : Word :=
  match base with
  | .v n => v.word n.val lane
  | .s n => readS v.g n.val

/-- A global address is the 64-bit sum of base, extended index and displacement, whatever the displacement (R276). -/
theorem memAddr_global (v : View) (base : MBase) (idx : BSrc) (disp i : Nat) :
    v.memAddr true base idx disp i =
      (v.base64 base i + (v.bword idx i).signExtend 64 + BitVec.ofNat 64 disp).toNat := by
  have hsum : v.memAddr true base idx disp i = ((v.base64 base i).toNat + ((v.bword idx i).signExtend 64).toNat + disp) % 2 ^ 64 := by
    rw [← sext64_toNat, ← srcB_code_b32]
    cases base with
    | v n => rw [View.base64, ← srcV_code_pair]; rfl
    | s n => rfl
  rw [hsum, BitVec.toNat_add, BitVec.toNat_add, BitVec.toNat_ofNat, Nat.mod_add_mod, Nat.add_mod_mod]

/-- A shared address is the 32-bit sum of base, index and displacement, whatever the displacement (R276). -/
theorem memAddr_shared (v : View) (base : MBase) (idx : BSrc) (disp i : Nat) :
    v.memAddr false base idx disp i =
      (v.base32 base i + ((v.bword idx i).signExtend 64).setWidth 32 + BitVec.ofNat 32 disp).toNat := by
  have hsum : v.memAddr false base idx disp i = ((v.base32 base i).toNat + ((v.bword idx i).signExtend 64).toNat + disp) % 2 ^ 32 := by
    rw [← sext64_toNat, ← srcB_code_b32]
    cases base with
    | v n => rw [View.base32, ← srcV_code_word v .b32 (by decide)]; rfl
    | s n => rfl
  rw [hsum, BitVec.toNat_add, BitVec.toNat_add, BitVec.toNat_setWidth, BitVec.toNat_ofNat, Nat.mod_add_mod, Nat.add_mod_mod]
  omega

/-- Settles O11: each space's sum at the displacement that the field and the width give. -/
theorem laneAddress : Obligations.LaneAddress := by
  intro v base idx disp w i
  refine ⟨?global, ?shared⟩
  case global =>
    rw [memAddr_global, dispBytes_eq, BitVec.ofNat_toNat, BitVec.setWidth_eq]
    cases base <;> rfl
  case shared =>
    rw [memAddr_shared, dispBytes_eq, BitVec.ofNat_toNat]
    cases base <;> rfl

end Sys2Proof.Machine
